-- ==== Sys2Proof/Word.lean ====
section
/-! DEFINITION. The word and byte of the block (00_scope R7, R9, R10): a word is 32 bits, a byte is 8 bits, and all word
arithmetic is unsigned modulo 2^32, which is what BitVec's `+`, `-`, `*`, `<<<` and `>>>` compute. -/

namespace Sys2Proof

/-- A word: 32 bits (00_scope R7). -/
abbrev Word := BitVec 32

/-- A byte: 8 bits (00_scope R9). -/
abbrev Byte := BitVec 8

end Sys2Proof
end

