-- ==== Sys2Proof/Config.lean ====
section
/-! DEFINITION. What the spec leaves to the implementation (00_scope R8) and the values it leaves free
(93_implementation_defined I1 to I5, I12). Every constant here has no body: no proof can see its value, so a claim that
reads one holds for every value. Each is named in a log entry (notes/assumptions). -/

namespace Sys2Proof.Config

open Sys2Proof

/-- `MSG_CAP` less one. The type gives exactly the range of 00_scope R8, 1 ≤ MSG_CAP ≤ 2^32 - 1 (log 4). -/
opaque msgCapLessOne : Fin 4294967295

/-- `MSG_CAP`, the number of bytes of the message memory: an OPEN parameter (00_scope R8, log 4). State carries it in a
field of its own; this is that field's value in `State.reset`. -/
def msgCap : Nat := msgCapLessOne.val + 1

/-- The draw a 32-bit register (named by its register number) takes at the reset with this number (70_reset R252; 93 I1;
log 1). -/
opaque resetWord : Nat → BitVec 6 → Word

/-- The draw bits 7:0 of CB0 to CB3 and OUT0 to OUT7 take at the reset with this number (93 I2; log 2). -/
opaque resetByte : Nat → BitVec 6 → Byte

/-- The draw of each byte of MSG at the reset with this number: what a byte reads as that the host has not written since
(93 I3; log 3). -/
opaque resetMsgByte : Nat → Nat → Byte

/-- The n-th any-value read, of a 32-bit destination register while BUSY = 1 (10_state R45; 93 I4; log 5). -/
opaque busyReadWord : Nat → Word

/-- The n-th any-value read, of a register that stores one byte (10_state R45; log 5). -/
opaque busyReadByte : Nat → Byte

/-- The n-th any-value read, of OUT_LEN, whose bits 31:4 always read 0 (10_state R37, R45; log 6). -/
opaque busyReadLen : Nat → BitVec 4

/-- The n-th any-value read, of STATUS.RCNT: a draw in 0 to 32 (10_state R45; 93 I5; log 5). -/
opaque busyReadRcnt : Nat → Fin 33

/-- What a host variable holds before the host's program has set it (30_encoding R104 does not say; log 12). -/
opaque unsetVar : Nat → Word

end Sys2Proof.Config
end

