-- ==== Sys2Proof/Syntax.lean ====
section
/-! DEFINITION. The commands of the block: one constructor per row of spec/opcode_table.json (30_encoding R91, R94). No
command carries an operand (30_encoding R103): its one operand bit, VC, makes RENDER and RENDER.VC two rows. -/

namespace Sys2Proof

/-- A legal command word (30_encoding R94). -/
inductive Instr where
  /-- ENC, 0x00000001: encrypt the Block in place (42_tea R163). -/
  | enc
  /-- DEC, 0x00000002: decrypt the Block in place (42_tea R166). -/
  | dec
  /-- PAD, 0x00000003: prepare one zero-padded block (41_block_padder R143). -/
  | pad
  /-- RENDER, 0x00000004: all eight bytes of the Block (43_text R202, VC = 0). -/
  | render
  /-- RENDER.VC, 0x00000014: the first VCOUNT bytes of the Block (43_text R202, VC = 1). -/
  | renderVc
  /-- PACK, 0x00000005: four bytes to a word (40_codec R123). -/
  | pack
  /-- UNPACK, 0x00000006: a word to four bytes (40_codec R124). -/
  | unpack
deriving DecidableEq, Repr

end Sys2Proof
end

