-- ==== Sys2Proof/Machine/Agents.lean ====
section
/-! DEFINITION. What the agents of the block can do, as data: the host's transactions (20_memory R62), the host's program
in the spec's own notation (30_encoding R104, R105), and the moves a schedule is made of (20_memory R75). -/

namespace Sys2Proof.Machine

open Sys2Proof

/-- The four host transactions (20_memory R62). Register numbers are 6 bits and MSG indices 32 bits, so no narrower, wider
or misaligned access can be written down (R62, R69, R70). -/
inductive Transaction where
  | regWrite (n : BitVec 6) (w : Word)
  | regRead (n : BitVec 6)
  | msgWrite (i : Word) (b : Byte)
  | msgRead (i : Word)
deriving DecidableEq, Repr

/-- What the host's most recent read transaction returned (20_memory R62: a RegRead gives a word, a MsgRead a byte). -/
inductive ReadResult where
  | none
  | word (w : Word)
  | byte (b : Byte)
deriving DecidableEq, Repr

/-- An operand of a host line: a literal, or a host variable standing in its place (30_encoding R104). Variables are
numbered (log 12). -/
inductive Operand where
  | lit (w : Word)
  | var (v : Nat)
deriving DecidableEq, Repr

/-- A label of a host program: one the source wrote, or the fresh one of a WAIT (30_encoding R105; log 14). -/
inductive Label where
  | user (n : Nat)
  | fresh (n : Nat)
deriving DecidableEq, Repr

/-- One line of a host program (30_encoding R104, one constructor per line of its table). Only `wr`, `rd`, `wb` and `rb`
are transactions. -/
inductive Line where
  | wr (n : BitVec 6) (w : Operand)
  | rd (n : BitVec 6) (v : Nat)
  | wb (i b : Operand)
  | rb (i : Operand) (v : Nat)
  | label (l : Label)
  | bnz (v : Nat) (mask : Word) (l : Label)
  | bltu (a b : Operand) (l : Label)
  | set (v : Nat) (w : Operand)
  | add (v : Nat) (w : Operand)
  | sub (v : Nat) (a b : Operand)
  | min (v : Nat) (a b : Operand)
  | comment
deriving DecidableEq, Repr

/-- The pseudo-instructions (30_encoding R105). -/
inductive Pseudo where
  | cmd (i : Instr)
  | wait (v : Nat)
  | key (a b c d : Operand)
  | blk (a b : Operand)
  | str (i : Word) (text : List Char)
  | clrErr
deriving DecidableEq, Repr

/-- A line of source: a line, or a pseudo-instruction to be expanded (30_encoding R104, R105). -/
inductive Source where
  | line (l : Line)
  | pseudo (p : Pseudo)
deriving DecidableEq, Repr

/-- The host as an agent: its program, the line it is at, and its variables, names strictly rising (30_encoding R104). None
of it is state of the block. -/
structure HostAgent where
  prog : List Line
  line : Nat
  vars : List (Nat × Word)
deriving DecidableEq, Repr

/-- One move of the interleaving (20_memory R75; log 8). -/
inductive Move where
  /-- The host performs this transaction. -/
  | host (t : Transaction)
  /-- The host performs the next line of its program. -/
  | hostLine
  /-- The host writes this word to CMD and the engine performs the whole command before anything else happens: 30_encoding
  R99's form of a command as one step (log 7). -/
  | commandRun (w : Word)
  /-- The engine performs one step (30_encoding R97). -/
  | engine
  /-- The platform resets the block (70_reset R250). -/
  | reset
deriving DecidableEq, Repr

end Sys2Proof.Machine
end

