-- ==== Sys2Proof/Machine/State.lean ====
section
/-! DEFINITION. The whole state of the block and of its two agents, as plain data (10_state, 20_memory R60), and the state
right after reset (70_reset R250). -/

namespace Sys2Proof.Machine

open Sys2Proof

/-- The active command (10_state R42). -/
inductive Act where
  | none
  | enc
  | dec
  | pad
  | render
  | pack
  | unpack
deriving DecidableEq, Repr

/-- The interface errors (60_exceptions R221). Codes 5 to 15 are never produced and have no name (93 I10; log 16). -/
inductive ErrorCode where
  | none
  | illegalCmd
  | busyCmd
  | busyWrite
  | badAddr
deriving DecidableEq, Repr

/-- The registers by name (10_state R20). -/
inductive Reg where
  | cmd | status | v0 | v1 | k0 | k1 | k2 | k3 | sum | offset | msgLen | vcount | outLen | cw
  | cb0 | cb1 | cb2 | cb3
  | out0 | out1 | out2 | out3 | out4 | out5 | out6 | out7
deriving DecidableEq, Repr

/-- The bytes of MSG written since the last reset: (index, byte), indices strictly rising (log 3). -/
abbrev Memory := List Host.Cell

/-- The machine. The first part is the spec's own state; `msgCap` is its parameter; the last part is the model's: the reset
and read counters that pick free values, what the host last read, the schedule and the host's program. -/
structure State where
  /-- STATUS.BUSY (10_state R23). -/
  busy   : Bool
  /-- STATUS.DONE (10_state R24). -/
  done   : Bool
  /-- STATUS.ERR (10_state R25). -/
  err    : Bool
  /-- STATUS.ECODE (10_state R26). -/
  ecode  : ErrorCode
  /-- STATUS.RCNT (10_state R27). -/
  rcnt   : BitVec 6
  /-- The Block (10_state R29). -/
  v0     : Word
  v1     : Word
  /-- The Key (10_state R30). -/
  k0     : Word
  k1     : Word
  k2     : Word
  k3     : Word
  /-- The accumulator (10_state R31). -/
  sum    : Word
  /-- PAD's offset (10_state R34). -/
  offset : Word
  /-- PAD's message length (10_state R35). -/
  msgLen : Word
  /-- RENDER's count (10_state R36). -/
  vcount : Word
  /-- The rendered length; bits 31:4 of the register read 0 (10_state R37). -/
  outLen : BitVec 4
  /-- The codec's word (10_state R39). -/
  cw     : Word
  /-- The codec's bytes, bits 7:0 of each register (10_state R40). -/
  cb0    : Byte
  cb1    : Byte
  cb2    : Byte
  cb3    : Byte
  /-- The rendered bytes, bits 7:0 of each register (10_state R38). -/
  out0   : Byte
  out1   : Byte
  out2   : Byte
  out3   : Byte
  out4   : Byte
  out5   : Byte
  out6   : Byte
  out7   : Byte
  /-- ACT, the active command (10_state R42). -/
  act    : Act
  /-- ACTVC, the VC bit latched with it (10_state R42). -/
  actVc  : Bool
  /-- MSG (10_state R43; log 3). -/
  msg    : Memory
  /-- MSG_CAP (00_scope R8; log 4). No step changes it. -/
  msgCap : Nat
  /-- How many resets there have been: the number of this reset's draws (log 10). -/
  resets : Nat
  /-- How many any-value reads there have been: the number of the next draw (log 5). -/
  draws  : Nat
  /-- The result of the host's most recent read (log 11). -/
  lastRead : ReadResult
  /-- The moves still to happen, the next one first (log 8). -/
  inputs : List Move
  /-- The host's program (log 12). -/
  host   : HostAgent
deriving DecidableEq, Repr

/-- Why the model stops. The spec has no trap (60_exceptions R225) and no command with an error outcome (R220); neither
reason below is raised by a command's meaning. -/
inductive Fault where
  /-- An engine step with BUSY = 1 and ACT = NONE, which 10_state R42 rules out. Raised by `engineStep`; safe: no state the
  block reaches has it (log 15). -/
  | engineWithoutCommand
  /-- The host's program branches to a label it does not hold (30_encoding R104 gives no meaning). Raised by the host's
  branch lines; safe: the block's state is as the line before left it (log 13). -/
  | undefinedLabel
deriving DecidableEq, Repr

/-- Why the model gives no meaning. -/
inductive Refusal where
  /-- The instruction has no meaning in this model yet. Raised by `exec`'s rejected arms alone, of which there are none;
  safe. -/
  | notModelled (mnemonic : String)
deriving DecidableEq, Repr

/-- A host that has no program (log 12). -/
def HostAgent.empty : HostAgent := ⟨[], 0, []⟩

/-- The state the reset with number `k` leaves (70_reset R250): what the spec fixes at the fixed values, what it leaves
unspecified at that reset's draws (70_reset R252; log 1, 2, 3). -/
def State.resetNumber (k : Nat) : State where
  busy := false
  done := false
  err := false
  ecode := .none
  rcnt := 0
  v0 := Config.resetWord k 0x02
  v1 := Config.resetWord k 0x03
  k0 := Config.resetWord k 0x04
  k1 := Config.resetWord k 0x05
  k2 := Config.resetWord k 0x06
  k3 := Config.resetWord k 0x07
  sum := 0
  offset := 0
  msgLen := 0
  vcount := 0
  outLen := 0
  cw := Config.resetWord k 0x0D
  cb0 := Config.resetByte k 0x0E
  cb1 := Config.resetByte k 0x0F
  cb2 := Config.resetByte k 0x10
  cb3 := Config.resetByte k 0x11
  out0 := Config.resetByte k 0x12
  out1 := Config.resetByte k 0x13
  out2 := Config.resetByte k 0x14
  out3 := Config.resetByte k 0x15
  out4 := Config.resetByte k 0x16
  out5 := Config.resetByte k 0x17
  out6 := Config.resetByte k 0x18
  out7 := Config.resetByte k 0x19
  act := .none
  actVc := false
  msg := []
  msgCap := Config.msgCap
  resets := k
  draws := 0
  lastRead := .none
  inputs := []
  host := HostAgent.empty

/-- The machine right after power-on reset: the reset with number 0. -/
def State.reset : State := State.resetNumber 0

end Sys2Proof.Machine
end

