-- ==== Sys2Proof/WellFormed.lean ====
section
/-! DEFINITION. Which command words and which host programs are well formed: the fields of a command word and their three
checks (30_encoding R91 to R94), and the checks on a host program's labels (30_encoding R104) and on the text of a STR
(30_encoding R105). -/

namespace Sys2Proof

/-- The fields of a command word (30_encoding R90). -/
structure CommandFields where
  op  : BitVec 4
  vc  : Bool
  rsv : BitVec 27
deriving DecidableEq, Repr

/-- RSV must be zero (30_encoding R93). -/
def CommandFields.rsvZero (f : CommandFields) : Bool := f.rsv == 0

/-- OP must be one of the six operation codes (30_encoding R91). -/
def CommandFields.opDefined (f : CommandFields) : Bool := decide (1 ≤ f.op.toNat ∧ f.op.toNat ≤ 6)

/-- VC = 1 is legal with OP 0x4 only (30_encoding R92). -/
def CommandFields.vcAllowed (f : CommandFields) : Bool := !f.vc || f.op == 4

/-- The fields of a command are well formed (30_encoding R90 to R94). -/
def CommandFields.wellFormed (f : CommandFields) : Bool := f.rsvZero && f.opDefined && f.vcAllowed

namespace Machine

/-- The label a line defines. -/
def Line.defines : Line → Option Label
  | .label l => some l
  | _ => none

/-- The label a line branches to. -/
def Line.target : Line → Option Label
  | .bnz _ _ l => some l
  | .bltu _ _ l => some l
  | _ => none

/-- Every branch of the program goes to a label the program holds. -/
def targetsDefined (p : List Line) : Bool :=
  (p.filterMap Line.target).all fun l => (p.filterMap Line.defines).contains l

/-- No label is defined twice. -/
def labelsOnce (p : List Line) : Bool := decide (p.filterMap Line.defines).Nodup

/-- A host program is well formed (30_encoding R104; log 13). -/
def programWellFormed (p : List Line) : Bool := targetsDefined p && labelsOnce p

/-- The text of a STR is ASCII (30_encoding R105). -/
def Pseudo.wellFormed : Pseudo → Bool
  | .str _ text => text.all fun c => decide (c.toNat < 128)
  | .cmd _ | .wait _ | .key .. | .blk .. | .clrErr => true

end Machine

end Sys2Proof
end

