-- ==== Sys2Proof/Machine/Ops.lean ====
section
/-! DEFINITION. The shared operations: the sorted lists behind MSG and the host's variables, reading and writing one byte of
MSG, recording an interface error and clearing it (60_exceptions R222, R224: the block's one response to misuse, in place of
the exceptions it does not have, R225), the reset event (70_reset R250), and the codec between bytes and words
(40_codec R120, R121: the one place the byte order is decided, 20_memory R68). -/

namespace Sys2Proof.Machine

open Sys2Proof

/-- The value listed at a key, if one is. -/
def lookupCell {β : Type} : List (Nat × β) → Nat → Option β
  | [], _ => none
  | c :: rest, i => if c.1 = i then some c.2 else lookupCell rest i

/-- The list with this value at the key, keys kept rising. -/
def putCell {β : Type} : List (Nat × β) → Nat → β → List (Nat × β)
  | [], i, x => [(i, x)]
  | c :: rest, i, x =>
    if i < c.1 then (i, x) :: c :: rest
    else if i = c.1 then (i, x) :: rest
    else c :: putCell rest i x

/-- The keys rise strictly. -/
abbrev cellsRise {β : Type} (m : List (Nat × β)) : Prop := m.Pairwise fun c d => c.1 < d.1

/-- The canonical form of MSG: indices strictly rising. An unlisted index holds no written byte, and every entry is one, so
no entry equals what an unlisted index holds (log 3). -/
abbrev Memory.wf (m : Memory) : Prop := cellsRise m

/-- `MSG[i]` (20_memory R61): the byte written since the last reset, else that reset's draw (93 I3; log 3). -/
def State.readMsg (s : State) (i : Nat) : Byte := (lookupCell s.msg i).getD (Config.resetMsgByte s.resets i)

/-- `MSG[i] <- b` (20_memory R64). -/
def State.writeMsg (s : State) (i : Nat) (b : Byte) : State := { s with msg := putCell s.msg i b }

/-- `raise Error(c)` (60_exceptions R222): the error is recorded over any earlier one, and nothing else happens. -/
def raiseError (c : ErrorCode) (s : State) : State := { s with err := true, ecode := c }

/-- The clear of an error (10_state R25; 60_exceptions R224). -/
def clearError (s : State) : State := { s with err := false, ecode := .none }

/-- The reset event (70_reset R250): every piece of the block's state at its reset value, with fresh draws for the
unspecified ones. The parameter, the read counter and the host's side are no state of the block and stay (log 10). -/
def resetBlock (s : State) : State :=
  { State.resetNumber (s.resets + 1) with
    msgCap := s.msgCap, draws := s.draws, lastRead := s.lastRead, inputs := s.inputs, host := s.host }

/-- `f` performed `n` times. -/
def repeatPart {α : Type} (f : α → α) : Nat → α → α
  | 0, x => x
  | n + 1, x => repeatPart f n (f x)

/-- `be32(b0, b1, b2, b3)`, `b0` most significant (40_codec R120). -/
def be32 (b0 b1 b2 b3 : Byte) : Word :=
  (b0.setWidth 32 <<< 24) ||| (b1.setWidth 32 <<< 16) ||| (b2.setWidth 32 <<< 8) ||| b3.setWidth 32

/-- Byte `k` (0 to 3) of `unbe32(w)`, byte 0 most significant (40_codec R121). -/
def unbe32 (w : Word) : Nat → Byte
  | 0 => w.extractLsb' 24 8
  | 1 => w.extractLsb' 16 8
  | 2 => w.extractLsb' 8 8
  | _ => w.extractLsb' 0 8

end Sys2Proof.Machine
end

