-- ==== Sys2Proof/Machine/Flags.lean ====
section
/-! DEFINITION. STATUS: its word (10_state R22, R28) and how acceptance, a round and completion change its fields and the
active command (30_encoding R96, R98; 10_state R23, R24, R27). The block has no condition flags beyond STATUS (10_state
R44). -/

namespace Sys2Proof.Machine

open Sys2Proof

/-- The number of an error in STATUS.ECODE (60_exceptions R221). -/
def ErrorCode.code : ErrorCode → BitVec 4
  | .none => 0
  | .illegalCmd => 1
  | .busyCmd => 2
  | .busyWrite => 3
  | .badAddr => 4

/-- The word of STATUS with this RCNT: BUSY 0, DONE 1, ERR 2, ECODE 7:4, RCNT 13:8; bits 3 and 31:14 are 0 (10_state R22,
R28). -/
def statusWordWith (s : State) (rcnt : BitVec 6) : Word :=
  (0 : BitVec 18) ++ rcnt ++ s.ecode.code ++ (0 : BitVec 1) ++ BitVec.ofBool s.err ++ BitVec.ofBool s.done
    ++ BitVec.ofBool s.busy

/-- The word of STATUS. -/
def statusWord (s : State) : Word := statusWordWith s s.rcnt

/-- The part of acceptance every command shares (30_encoding R96). -/
def accept (a : Act) (vc : Bool) (s : State) : State := { s with act := a, actVc := vc, busy := true, done := false }

/-- The part of acceptance ENC and DEC add: the accumulator's first value, and no round performed (42_tea R163, R166). -/
def startRounds (sum : Word) (s : State) : State := { s with sum := sum, rcnt := 0 }

/-- Completion (30_encoding R98). -/
def complete (s : State) : State := { s with busy := false, done := true, act := .none, actVc := false }

/-- Completion, in the step whose round makes RCNT = 32 (42_tea R163, R166). -/
def completeAfterRounds (s : State) : State := if s.rcnt = 32 then complete s else s

end Sys2Proof.Machine
end

