-- ==== Sys2Proof/Machine/Operands.lean ====
section
/-! DEFINITION. The registers as the host and the commands reach them: the register map (10_state R20), what a register
reads as (10_state R21 to R41), what a host write stores (20_memory R63), the destination sets and the any-value reads
(30_encoding R97; 10_state R45). -/

namespace Sys2Proof.Machine

open Sys2Proof

/-- The register of a number; `none` for the reserved numbers 0x1A to 0x3F (10_state R20, R41). -/
def Reg.ofNumber (n : BitVec 6) : Option Reg :=
  match n.toNat with
  | 0x00 => some .cmd
  | 0x01 => some .status
  | 0x02 => some .v0
  | 0x03 => some .v1
  | 0x04 => some .k0
  | 0x05 => some .k1
  | 0x06 => some .k2
  | 0x07 => some .k3
  | 0x08 => some .sum
  | 0x09 => some .offset
  | 0x0A => some .msgLen
  | 0x0B => some .vcount
  | 0x0C => some .outLen
  | 0x0D => some .cw
  | 0x0E => some .cb0
  | 0x0F => some .cb1
  | 0x10 => some .cb2
  | 0x11 => some .cb3
  | 0x12 => some .out0
  | 0x13 => some .out1
  | 0x14 => some .out2
  | 0x15 => some .out3
  | 0x16 => some .out4
  | 0x17 => some .out5
  | 0x18 => some .out6
  | 0x19 => some .out7
  | _ => none

/-- The number of a register (10_state R20). -/
def Reg.number : Reg → BitVec 6
  | .cmd => 0x00
  | .status => 0x01
  | .v0 => 0x02
  | .v1 => 0x03
  | .k0 => 0x04
  | .k1 => 0x05
  | .k2 => 0x06
  | .k3 => 0x07
  | .sum => 0x08
  | .offset => 0x09
  | .msgLen => 0x0A
  | .vcount => 0x0B
  | .outLen => 0x0C
  | .cw => 0x0D
  | .cb0 => 0x0E
  | .cb1 => 0x0F
  | .cb2 => 0x10
  | .cb3 => 0x11
  | .out0 => 0x12
  | .out1 => 0x13
  | .out2 => 0x14
  | .out3 => 0x15
  | .out4 => 0x16
  | .out5 => 0x17
  | .out6 => 0x18
  | .out7 => 0x19

/-- The read-only registers whose writes are errors: SUM, OUT_LEN, OUT0 to OUT7 (20_memory R63). -/
def Reg.readOnly : Reg → Bool
  | .sum | .outLen | .out0 | .out1 | .out2 | .out3 | .out4 | .out5 | .out6 | .out7 => true
  | .cmd | .status | .v0 | .v1 | .k0 | .k1 | .k2 | .k3 | .offset | .msgLen | .vcount | .cw | .cb0 | .cb1 | .cb2 | .cb3 =>
    false

/-- The defined value of a register (10_state R21 to R40): CMD reads 0, a byte register reads its byte zero-extended, OUT_LEN
its length. -/
def regValue (s : State) : Reg → Word
  | .cmd => 0
  | .status => statusWord s
  | .v0 => s.v0
  | .v1 => s.v1
  | .k0 => s.k0
  | .k1 => s.k1
  | .k2 => s.k2
  | .k3 => s.k3
  | .sum => s.sum
  | .offset => s.offset
  | .msgLen => s.msgLen
  | .vcount => s.vcount
  | .outLen => s.outLen.setWidth 32
  | .cw => s.cw
  | .cb0 => s.cb0.setWidth 32
  | .cb1 => s.cb1.setWidth 32
  | .cb2 => s.cb2.setWidth 32
  | .cb3 => s.cb3.setWidth 32
  | .out0 => s.out0.setWidth 32
  | .out1 => s.out1.setWidth 32
  | .out2 => s.out2.setWidth 32
  | .out3 => s.out3.setWidth 32
  | .out4 => s.out4.setWidth 32
  | .out5 => s.out5.setWidth 32
  | .out6 => s.out6.setWidth 32
  | .out7 => s.out7.setWidth 32

/-- What MSG_LEN stores of a written word: `min(w, MSG_CAP)`, unsigned (10_state R35). -/
def clampLen (cap : Nat) (w : Word) : Word := if w.toNat ≤ cap then w else BitVec.ofNat 32 cap

/-- Storing a written word in an operand register (20_memory R63, its last three cases): MSG_LEN clamped, CB0 to CB3 bits
7:0, the others whole. The registers `regWrite` never gets here with are left alone. -/
def storeReg (r : Reg) (w : Word) (s : State) : State :=
  match r with
  | .v0 => { s with v0 := w }
  | .v1 => { s with v1 := w }
  | .k0 => { s with k0 := w }
  | .k1 => { s with k1 := w }
  | .k2 => { s with k2 := w }
  | .k3 => { s with k3 := w }
  | .offset => { s with offset := w }
  | .msgLen => { s with msgLen := clampLen s.msgCap w }
  | .vcount => { s with vcount := w }
  | .cw => { s with cw := w }
  | .cb0 => { s with cb0 := w.setWidth 8 }
  | .cb1 => { s with cb1 := w.setWidth 8 }
  | .cb2 => { s with cb2 := w.setWidth 8 }
  | .cb3 => { s with cb3 := w.setWidth 8 }
  | .cmd | .status | .sum | .outLen | .out0 | .out1 | .out2 | .out3 | .out4 | .out5 | .out6 | .out7 => s

/-- The destination set of the active command (30_encoding R97). For ENC and DEC it holds the RCNT field of STATUS, which
stands here as STATUS. -/
def inDestSet : Act → Reg → Bool
  | .enc, r | .dec, r => r == .v0 || r == .v1 || r == .sum || r == .status
  | .pad, r => r == .v0 || r == .v1
  | .render, r =>
    r == .outLen || r == .out0 || r == .out1 || r == .out2 || r == .out3 || r == .out4 || r == .out5 || r == .out6
      || r == .out7
  | .pack, r => r == .cw
  | .unpack, r => r == .cb0 || r == .cb1 || r == .cb2 || r == .cb3
  | .none, _ => false

/-- A read of this register returns any value now (10_state R45). -/
def readsAnyValue (s : State) (r : Reg) : Bool := s.busy && inDestSet s.act r

/-- The free value such a read returns: any value of the register's width, and for STATUS the defined fields with any RCNT
in 0 to 32 (10_state R45; 93 I4, I5; log 5, 6). -/
def anyValue (s : State) : Reg → Word
  | .status => statusWordWith s (BitVec.ofNat 6 (Config.busyReadRcnt s.draws).val)
  | .outLen => (Config.busyReadLen s.draws).setWidth 32
  | .cb0 | .cb1 | .cb2 | .cb3 | .out0 | .out1 | .out2 | .out3 | .out4 | .out5 | .out6 | .out7 =>
    (Config.busyReadByte s.draws).setWidth 32
  | .cmd | .v0 | .v1 | .k0 | .k1 | .k2 | .k3 | .sum | .offset | .msgLen | .vcount | .cw => Config.busyReadWord s.draws

end Sys2Proof.Machine
end

