-- ==== Sys2Proof/Machine/BlockPadder.lean ====
section
/-! DEFINITION. BlockPadder: the padding function and PAD (41_block_padder R141 to R143). -/

namespace Sys2Proof.Machine

open Sys2Proof

/-- `byte_j` of the padded block (41_block_padder R141). The index is a Nat, so `OFFSET + j` is exact and never wraps. -/
def padByte (s : State) (j : Nat) : Byte :=
  if s.offset.toNat + j < s.msgLen.toNat then s.readMsg (s.offset.toNat + j) else 0

/-- PAD's one part (41_block_padder R142, R143). -/
def padPart (s : State) : State :=
  { s with
    v0 := be32 (padByte s 0) (padByte s 1) (padByte s 2) (padByte s 3)
    v1 := be32 (padByte s 4) (padByte s 5) (padByte s 6) (padByte s 7) }

/-- PAD, from its CMD word to its completion (41_block_padder R143; 30_encoding R95, R99; log 7). -/
def execPad (s : State) : Host.Outcome State Fault Refusal :=
  if s.busy then .next (raiseError .busyCmd s)
  else .next (complete (padPart (accept .pad false s)))

end Sys2Proof.Machine
end

