-- ==== Sys2Proof/Machine/BlockTextView.lean ====
section
/-! DEFINITION. BlockTextView: the rendered length, the rendered bytes, RENDER and RENDER.VC (43_text R200 to R202). -/

namespace Sys2Proof.Machine

open Sys2Proof

/-- `clamp(x, 0, 8)` of a signed count (43_text R200; 00_scope R11). -/
def clampCount (x : Int) : Nat := if x < 0 then 0 else if 8 < x then 8 else x.toNat

/-- The rendered length n: 8 with VC = 0, else VCOUNT read as a signed integer and clamped (43_text R200). -/
def renderCount (vc : Bool) (vcount : Word) : Nat := if vc then clampCount vcount.toInt else 8

/-- `r_i`: bytes 0 to 3 from V0, bytes 4 to 7 from V1, most significant first (43_text R201). -/
def blockByte (s : State) (i : Nat) : Byte := if i < 4 then unbe32 s.v0 i else unbe32 s.v1 (i - 4)

/-- What OUTi gets: `r_i` below the count, 0 from it on (43_text R202). -/
def renderedByte (s : State) (n i : Nat) : Byte := if i < n then blockByte s i else 0

/-- RENDER's one part, with the count the latched VC bit selects (43_text R202). -/
def renderPart (s : State) : State :=
  let n := renderCount s.actVc s.vcount
  { s with
    out0 := renderedByte s n 0
    out1 := renderedByte s n 1
    out2 := renderedByte s n 2
    out3 := renderedByte s n 3
    out4 := renderedByte s n 4
    out5 := renderedByte s n 5
    out6 := renderedByte s n 6
    out7 := renderedByte s n 7
    outLen := BitVec.ofNat 4 n }

/-- RENDER, from its CMD word to its completion (43_text R202, VC = 0; 30_encoding R95, R99; log 7). -/
def execRender (s : State) : Host.Outcome State Fault Refusal :=
  if s.busy then .next (raiseError .busyCmd s)
  else .next (complete (renderPart (accept .render false s)))

/-- RENDER.VC, from its CMD word to its completion (43_text R202, VC = 1; 30_encoding R95, R99; log 7). -/
def execRenderVc (s : State) : Host.Outcome State Fault Refusal :=
  if s.busy then .next (raiseError .busyCmd s)
  else .next (complete (renderPart (accept .render true s)))

end Sys2Proof.Machine
end

