-- ==== Sys2Proof/Machine/TeaCipher.lean ====
section
/-! DEFINITION. TeaCipher: the constant, the mixing function, one round in each direction, ENC and DEC (42_tea R160 to R166),
and their closed forms (R164, R165). A round is one iteration of both half-updates (90_conflicts C1). -/

namespace Sys2Proof.Machine

open Sys2Proof

/-- DELTA, hardwired (42_tea R160). -/
def delta : Word := 0x9E3779B9

/-- `DELTA * 32` modulo 2^32, held as a constant (42_tea R162). -/
def deltaTimes32 : Word := 0xC6EF3720

/-- `F(v, s, ka, kb)`, the mixing function of one half-update (42_tea R161). -/
def mix (v s ka kb : Word) : Word := ((v <<< 4) + ka) ^^^ (v + s) ^^^ ((v >>> 5) + kb)

/-- One round of ENC (42_tea R163): the new SUM, then V0 with it, then V1 with it and the just-updated V0. -/
def encRound (s : State) : State :=
  let sum := s.sum + delta
  let v0 := s.v0 + mix s.v1 sum s.k0 s.k1
  let v1 := s.v1 + mix v0 sum s.k2 s.k3
  { s with sum := sum, v0 := v0, v1 := v1, rcnt := s.rcnt + 1 }

/-- One round of DEC (42_tea R166): V1 with the current V0 and SUM, then V0 with the just-updated V1, then SUM. -/
def decRound (s : State) : State :=
  let v1 := s.v1 - mix s.v0 s.sum s.k2 s.k3
  let v0 := s.v0 - mix v1 s.sum s.k0 s.k1
  { s with v1 := v1, v0 := v0, sum := s.sum - delta, rcnt := s.rcnt + 1 }

/-- Acceptance of ENC (42_tea R163; 30_encoding R96). -/
def acceptEnc (s : State) : State := startRounds 0 (accept .enc false s)

/-- Acceptance of DEC (42_tea R166; 30_encoding R96). -/
def acceptDec (s : State) : State := startRounds deltaTimes32 (accept .dec false s)

/-- One engine step of ENC: a round, and completion in the step of the last one (42_tea R163). -/
def encPart (s : State) : State := completeAfterRounds (encRound s)

/-- One engine step of DEC: a round, and completion in the step of the last one (42_tea R166). -/
def decPart (s : State) : State := completeAfterRounds (decRound s)

/-- ENC, from its CMD word to its completion: acceptance and exactly 32 rounds (42_tea R163; 30_encoding R95, R99; log 7). -/
def execEnc (s : State) : Host.Outcome State Fault Refusal :=
  if s.busy then .next (raiseError .busyCmd s)
  else .next (complete (repeatPart encRound 32 (acceptEnc s)))

/-- DEC, from its CMD word to its completion: acceptance and exactly 32 rounds (42_tea R166; 30_encoding R95, R99; log 7). -/
def execDec (s : State) : Host.Outcome State Fault Refusal :=
  if s.busy then .next (raiseError .busyCmd s)
  else .next (complete (repeatPart decRound 32 (acceptDec s)))

/-- One iteration of the loop of TeaEnc on (v0, v1, sum) (42_tea R164). -/
def teaEncRound (k0 k1 k2 k3 : Word) (x : Word × Word × Word) : Word × Word × Word :=
  let sum := x.2.2 + delta
  let v0 := x.1 + mix x.2.1 sum k0 k1
  let v1 := x.2.1 + mix v0 sum k2 k3
  (v0, v1, sum)

/-- The closed form of ENC (42_tea R164). -/
def teaEnc (v0 v1 k0 k1 k2 k3 : Word) : Word × Word :=
  let x := repeatPart (teaEncRound k0 k1 k2 k3) 32 (v0, v1, 0)
  (x.1, x.2.1)

/-- One iteration of the loop of TeaDec on (v0, v1, sum) (42_tea R165). -/
def teaDecRound (k0 k1 k2 k3 : Word) (x : Word × Word × Word) : Word × Word × Word :=
  let v1 := x.2.1 - mix x.1 x.2.2 k2 k3
  let v0 := x.1 - mix v1 x.2.2 k0 k1
  (v0, v1, x.2.2 - delta)

/-- The closed form of DEC (42_tea R165). -/
def teaDec (v0 v1 k0 k1 k2 k3 : Word) : Word × Word :=
  let x := repeatPart (teaDecRound k0 k1 k2 k3) 32 (v0, v1, deltaTimes32)
  (x.1, x.2.1)

end Sys2Proof.Machine
end

