-- ==== Sys2Proof/Machine/WordCodec.lean ====
section
/-! DEFINITION. WordCodec's commands: PACK and UNPACK (40_codec R123, R124). -/

namespace Sys2Proof.Machine

open Sys2Proof

/-- PACK's one part (40_codec R123). -/
def packPart (s : State) : State := { s with cw := be32 s.cb0 s.cb1 s.cb2 s.cb3 }

/-- UNPACK's one part (40_codec R124). -/
def unpackPart (s : State) : State :=
  { s with cb0 := unbe32 s.cw 0, cb1 := unbe32 s.cw 1, cb2 := unbe32 s.cw 2, cb3 := unbe32 s.cw 3 }

/-- PACK, from its CMD word to its completion (40_codec R123; 30_encoding R95, R99; log 7). -/
def execPack (s : State) : Host.Outcome State Fault Refusal :=
  if s.busy then .next (raiseError .busyCmd s)
  else .next (complete (packPart (accept .pack false s)))

/-- UNPACK, from its CMD word to its completion (40_codec R124; 30_encoding R95, R99; log 7). -/
def execUnpack (s : State) : Host.Outcome State Fault Refusal :=
  if s.busy then .next (raiseError .busyCmd s)
  else .next (complete (unpackPart (accept .unpack false s)))

end Sys2Proof.Machine
end

