-- ==== Sys2Proof/Machine/Engine.lean ====
section
/-! DEFINITION. The engine part by part: what accepting each command does (30_encoding R96), and one engine step
(30_encoding R97, R98). -/

namespace Sys2Proof.Machine

open Sys2Proof

/-- `accept(w)` for the command a legal word is (30_encoding R96). -/
def acceptCommand (i : Instr) (s : State) : State :=
  match i with
  | .enc => acceptEnc s
  | .dec => acceptDec s
  | .pad => accept .pad false s
  | .render => accept .render false s
  | .renderVc => accept .render true s
  | .pack => accept .pack false s
  | .unpack => accept .unpack false s

/-- How many engine steps a command takes (30_encoding R97). -/
def partCount : Instr → Nat
  | .enc | .dec => 32
  | .pad | .render | .renderVc | .pack | .unpack => 1

/-- One engine step (30_encoding R97): the next part of the active command. With BUSY = 0 the engine has no step, and a
move of it does nothing (log 8). -/
def engineStep (s : State) : Host.Outcome State Fault Refusal :=
  if s.busy then
    match s.act with
    | .none => .fault .engineWithoutCommand
    | .enc => .next (encPart s)
    | .dec => .next (decPart s)
    | .pad => .next (complete (padPart s))
    | .render => .next (complete (renderPart s))
    | .pack => .next (complete (packPart s))
    | .unpack => .next (complete (unpackPart s))
  else .next s

/-- `n` engine steps, one after another. -/
def engineSteps : Nat → State → Host.Outcome State Fault Refusal
  | 0, s => .next s
  | n + 1, s =>
    match engineStep s with
    | .next t => engineSteps n t
    | .fault f => .fault f
    | .refused r => .refused r

end Sys2Proof.Machine
end

