-- ==== Sys2Proof/Machine/Dispatch.lean ====
section
/-! DEFINITION. The meaning of each command: one arm per constructor. -/

namespace Sys2Proof.Machine

open Sys2Proof

/-- The whole command, from its CMD word to its completion (30_encoding R95, R96, R99; log 7). -/
def exec (i : Instr) (s : State) : Host.Outcome State Fault Refusal :=
  match i with
  | .enc => Sys2Proof.Machine.execEnc s
  | .dec => Sys2Proof.Machine.execDec s
  | .pad => Sys2Proof.Machine.execPad s
  | .render => Sys2Proof.Machine.execRender s
  | .renderVc => Sys2Proof.Machine.execRenderVc s
  | .pack => Sys2Proof.Machine.execPack s
  | .unpack => Sys2Proof.Machine.execUnpack s

end Sys2Proof.Machine
end

