-- ==== Sys2Proof/Decode.lean ====
section
/-! DEFINITION. Reading a command word and writing one (30_encoding R90 to R94, R101, R102). The decoder is total on every
word and rejects by name; the encoder is written from the same table of OP values. A command word is written to CMD as one
32-bit value (10_state R21), so it has no byte order (log 9). -/

namespace Sys2Proof

/-- Why a word is no command (30_encoding R101). -/
inductive DecodeReject where
  /-- Some bit of 31:5 is set (R93). -/
  | reservedBits
  /-- OP is 0x0 or 0x7 to 0xF (R91). -/
  | undefinedOp
  /-- VC = 1 with an OP other than 0x4 (R92). -/
  | vcWithoutRender
deriving DecidableEq, Repr

/-- The fields of a word: OP 3:0, VC 4, RSV 31:5 (30_encoding R90). -/
def fieldsOfWord (w : Word) : CommandFields :=
  ⟨w.extractLsb' 0 4, w.getLsbD 4, w.extractLsb' 5 27⟩

/-- The word with these fields (30_encoding R90). -/
def wordOfFields (f : CommandFields) : Word := f.rsv ++ BitVec.ofBool f.vc ++ f.op

/-- The legality predicate, as 30_encoding R94 writes it. -/
def legal (w : Word) : Bool :=
  w.extractLsb' 5 27 == 0 && (decide (1 ≤ (w.extractLsb' 0 4).toNat) && decide ((w.extractLsb' 0 4).toNat ≤ 6))
    && (!w.getLsbD 4 || w.extractLsb' 0 4 == 4)

/-- The command with these fields (30_encoding R91, R92), or why there is none. -/
def decodeFields (f : CommandFields) : Except DecodeReject Instr :=
  if f.rsv ≠ 0 then .error .reservedBits
  else match f.op.toNat, f.vc with
    | 1, false => .ok .enc
    | 2, false => .ok .dec
    | 3, false => .ok .pad
    | 4, false => .ok .render
    | 4, true => .ok .renderVc
    | 5, false => .ok .pack
    | 6, false => .ok .unpack
    | 1, true | 2, true | 3, true | 5, true | 6, true => .error .vcWithoutRender
    | _, _ => .error .undefinedOp

/-- The command a word is, or the name of what is wrong with it. -/
def decodeWord (w : Word) : Except DecodeReject Instr := decodeFields (fieldsOfWord w)

/-- The command a word is (`none` exactly for the illegal words of 30_encoding R101). -/
def decode (w : Word) : Option Instr :=
  match decodeWord w with
  | .ok i => some i
  | .error _ => none

/-- The fields of a command's word (30_encoding R91, R92). -/
def Instr.fields : Instr → CommandFields
  | .enc => ⟨1, false, 0⟩
  | .dec => ⟨2, false, 0⟩
  | .pad => ⟨3, false, 0⟩
  | .render => ⟨4, false, 0⟩
  | .renderVc => ⟨4, true, 0⟩
  | .pack => ⟨5, false, 0⟩
  | .unpack => ⟨6, false, 0⟩

/-- The word of a command. -/
def encode (i : Instr) : Word := wordOfFields i.fields

/-- An instruction is well formed when its fields are (30_encoding R94). -/
def Instr.wellFormed (i : Instr) : Bool := i.fields.wellFormed

/-- The word an instruction of `nbits` bits numbered `w` stands for: bits at `nbits` and above are 0 (log 9). -/
def tableWord (nbits w : Nat) : Word := BitVec.ofNat 32 (w % 2 ^ nbits)

/-- The decoder's answer for a row of the opcode table. A row has at most 32 bits: there is one command length
(30_encoding R102). -/
def decodeTableWord (nbits w : Nat) : Option Instr :=
  if nbits ≤ 32 then decode (tableWord nbits w) else none

end Sys2Proof
end

