-- ==== Sys2Proof/Machine/Transactions.lean ====
section
/-! DEFINITION. The four host transactions, case by case in the spec's order (20_memory R63 to R66; 30_encoding R95). -/

namespace Sys2Proof.Machine

open Sys2Proof

/-- A write of a word to CMD (30_encoding R95): busy is checked first, then the word. -/
def cmdWrite (w : Word) (s : State) : State :=
  if s.busy then raiseError .busyCmd s
  else match decode w with
    | none => raiseError .illegalCmd s
    | some i => acceptCommand i s

/-- A write of a word to STATUS (10_state R25): bit 2 set clears the error, every other bit is ignored. -/
def statusWrite (w : Word) (s : State) : State := if w.getLsbD 2 then clearError s else s

/-- `RegWrite(n, w)` (20_memory R63), the first matching case. -/
def regWrite (n : BitVec 6) (w : Word) (s : State) : State :=
  match Reg.ofNumber n with
  | none => raiseError .badAddr s
  | some r =>
    if r.readOnly then raiseError .badAddr s
    else if r = .status then statusWrite w s
    else if r = .cmd then cmdWrite w s
    else if s.busy then raiseError .busyWrite s
    else storeReg r w s

/-- `RegRead(n)` (20_memory R65; 10_state R41, R45). The block's state does not change; the model's own `lastRead` takes the
result, and an any-value read uses up one draw (log 5, 11). -/
def regRead (n : BitVec 6) (s : State) : State :=
  match Reg.ofNumber n with
  | none => { s with lastRead := .word 0 }
  | some r =>
    if readsAnyValue s r then { s with lastRead := .word (anyValue s r), draws := s.draws + 1 }
    else { s with lastRead := .word (regValue s r) }

/-- `MsgWrite(i, b)` (20_memory R64), the first matching case. -/
def msgWrite (i : Word) (b : Byte) (s : State) : State :=
  if s.msgCap ≤ i.toNat then raiseError .badAddr s
  else if s.busy then raiseError .busyWrite s
  else s.writeMsg i.toNat b

/-- `MsgRead(i)` (20_memory R66). -/
def msgRead (i : Word) (s : State) : State :=
  { s with lastRead := .byte (if i.toNat < s.msgCap then s.readMsg i.toNat else 0) }

/-- A host transaction (20_memory R62). -/
def transact (t : Transaction) (s : State) : State :=
  match t with
  | .regWrite n w => regWrite n w s
  | .regRead n => regRead n s
  | .msgWrite i b => msgWrite i b s
  | .msgRead i => msgRead i s

end Sys2Proof.Machine
end

