-- ==== Sys2Proof/Machine/HostSteps.lean ====
section
/-! DEFINITION. The host's program: what one line does (30_encoding R104) and how source with pseudo-instructions is expanded
into lines (30_encoding R105). -/

namespace Sys2Proof.Machine

open Sys2Proof

/-- The value of a host variable (log 12). -/
def State.hostVar (s : State) (v : Nat) : Word := (lookupCell s.host.vars v).getD (Config.unsetVar v)

/-- The value of an operand (30_encoding R104). -/
def Operand.value (s : State) : Operand → Word
  | .lit w => w
  | .var v => s.hostVar v

/-- A host variable set. -/
def State.setHostVar (s : State) (v : Nat) (w : Word) : State :=
  { s with host := { s.host with vars := putCell s.host.vars v w } }

/-- The host at this line of its program. -/
def State.atHostLine (s : State) (k : Nat) : State := { s with host := { s.host with line := k } }

/-- The host at the line after this one. -/
def State.nextHostLine (s : State) : State := s.atHostLine (s.host.line + 1)

/-- The last read's result as the word a host variable takes: a byte zero-extended (log 12). -/
def ReadResult.toWord : ReadResult → Word
  | .none => 0
  | .word w => w
  | .byte b => b.setWidth 32

/-- The number of the line that defines a label, counting from `k`. -/
def findLabel (l : Label) : List Line → Nat → Option Nat
  | [], _ => none
  | x :: rest, k => if x.defines = some l then some k else findLabel l rest (k + 1)

/-- A branch: to the label if taken, else to the next line; a label the program does not hold stops the host (log 13). -/
def hostBranch (taken : Bool) (l : Label) (s : State) : Host.Outcome State Fault Refusal :=
  if taken then
    match findLabel l s.host.prog 0 with
    | some k => .next (s.atHostLine k)
    | none => .fault .undefinedLabel
  else .next s.nextHostLine

/-- The unsigned minimum (30_encoding R104, MIN). -/
def minWord (a b : Word) : Word := if b.toNat < a.toNat then b else a

/-- What one line does (30_encoding R104). -/
def runLine (x : Line) (s : State) : Host.Outcome State Fault Refusal :=
  match x with
  | .wr n w => .next (regWrite n (w.value s) s).nextHostLine
  | .rd n v => let t := regRead n s; .next (t.setHostVar v t.lastRead.toWord).nextHostLine
  | .wb i b => .next (msgWrite (i.value s) ((b.value s).setWidth 8) s).nextHostLine
  | .rb i v => let t := msgRead (i.value s) s; .next (t.setHostVar v t.lastRead.toWord).nextHostLine
  | .label _ => .next s.nextHostLine
  | .bnz v mask l => hostBranch (s.hostVar v &&& mask != 0) l s
  | .bltu a b l => hostBranch (decide ((a.value s).toNat < (b.value s).toNat)) l s
  | .set v w => .next (s.setHostVar v (w.value s)).nextHostLine
  | .add v w => .next (s.setHostVar v (s.hostVar v + w.value s)).nextHostLine
  | .sub v a b => .next (s.setHostVar v (a.value s - b.value s)).nextHostLine
  | .min v a b => .next (s.setHostVar v (minWord (a.value s) (b.value s))).nextHostLine
  | .comment => .next s.nextHostLine

/-- The host's next line; a host past its last line has nothing to do (log 12). -/
def hostLineStep (s : State) : Host.Outcome State Fault Refusal :=
  match s.host.prog[s.host.line]? with
  | none => .next s
  | some x => runLine x s

/-- The byte of an ASCII character (30_encoding R105, STR). -/
def asciiByte (c : Char) : Byte := BitVec.ofNat 8 c.toNat

/-- The MsgWrites of a STR, one per byte, from index `i` on (30_encoding R105). -/
def strLines (i : Word) : List Char → List Line
  | [] => []
  | c :: rest => .wb (.lit i) (.lit ((asciiByte c).setWidth 32)) :: strLines (i + 1) rest

/-- The lines of a pseudo-instruction (30_encoding R105); `fresh` is the label of a WAIT. -/
def Pseudo.expand (fresh : Label) : Pseudo → List Line
  | .cmd i => [.wr Reg.cmd.number (.lit (encode i))]
  | .wait v => [.label fresh, .rd Reg.status.number v, .bnz v 1 fresh]
  | .key a b c d => [.wr Reg.k0.number a, .wr Reg.k1.number b, .wr Reg.k2.number c, .wr Reg.k3.number d]
  | .blk a b => [.wr Reg.v0.number a, .wr Reg.v1.number b]
  | .str i text => strLines i text
  | .clrErr => [.wr Reg.status.number (.lit 4)]

/-- The lines of a source program; the k-th source line's fresh label is `.fresh k` (30_encoding R105; log 14). -/
def assemble (k : Nat) : List Source → List Line
  | [] => []
  | .line x :: rest => x :: assemble (k + 1) rest
  | .pseudo p :: rest => p.expand (.fresh k) ++ assemble (k + 1) rest

end Sys2Proof.Machine
end

