-- ==== Sys2Proof/Machine/Moves.lean ====
section
/-! DEFINITION. One move of the interleaving (20_memory R75; log 8). -/

namespace Sys2Proof.Machine

open Sys2Proof

/-- A word written to CMD with nothing between it and the command's completion (30_encoding R95, R99; log 7): the command's
whole meaning, or the rejection of a word that is none. -/
def commandRun (w : Word) (s : State) : Host.Outcome State Fault Refusal :=
  match decode w with
  | some i => exec i s
  | none => .next (cmdWrite w s)

/-- What a move does. -/
def performMove (m : Move) (s : State) : Host.Outcome State Fault Refusal :=
  match m with
  | .host t => .next (transact t s)
  | .hostLine => hostLineStep s
  | .commandRun w => commandRun w s
  | .engine => engineStep s
  | .reset => .next (resetBlock s)

/-- The move made when the schedule lists none: the engine's while BUSY = 1, else the host's next line (log 8). A block with
BUSY = 0 and a host with no line left does nothing (60_exceptions R232). -/
def unscheduled (s : State) : Host.Outcome State Fault Refusal :=
  if s.busy then engineStep s else hostLineStep s

end Sys2Proof.Machine
end

