-- ==== Sys2Proof/Machine/Step.lean ====
section
/-! DEFINITION. One step: the next move of the schedule (20_memory R75; log 8). -/

namespace Sys2Proof.Machine

open Sys2Proof

/-- One step of the machine. -/
def step (s : State) : Host.Outcome State Fault Refusal :=
  match s.inputs with
  | [] => unscheduled s
  | m :: rest => performMove m { s with inputs := rest }

/-- The state whose next step fetches this command word: the word stands at the head of the schedule, as a write to CMD
(log 9). -/
def State.withFetchWord (s : State) (nbits w : Nat) : State :=
  { s with inputs := .commandRun (tableWord nbits w) :: s.inputs }

end Sys2Proof.Machine
end

