-- ==== Sys2Proof/Safety.lean ====
section
/-! DEFINITION. The vocabulary of claims: what a sound state is (the facts the spec says hold of the block at every moment, as
one invariant), which transaction the next step performs, which error a transaction is to record (60_exceptions R221,
R223), how many engine steps an active command still needs (30_encoding R97), and when two states are one block apart from
host traffic. -/

namespace Sys2Proof.Machine

open Sys2Proof

/-- A sound state of the block. -/
structure State.Inv (s : State) : Prop where
  /-- ACT = NONE exactly when BUSY = 0 (10_state R42). -/
  busy_iff_act : s.busy = true ↔ s.act ≠ .none
  /-- BUSY = 1 implies DONE = 0 (10_state R24). -/
  busy_not_done : s.busy = true → s.done = false
  /-- ACTVC = 1 only with RENDER active (30_encoding R92, R96, R98). -/
  vc_only_render : s.actVc = true → s.act = .render
  /-- ERR and ECODE are set and cleared together (10_state R25, R26). -/
  err_iff_ecode : s.err = true ↔ s.ecode ≠ .none
  /-- RCNT is 0 to 32 (10_state R27). -/
  rcnt_le : s.rcnt.toNat ≤ 32
  /-- With ENC active, SUM = DELTA * RCNT and a round is still to come (42_tea R168). -/
  enc_sum : s.act = .enc → s.rcnt.toNat < 32 ∧ s.sum = delta * BitVec.ofNat 32 s.rcnt.toNat
  /-- With DEC active, SUM = DELTA * (32 - RCNT) and a round is still to come (42_tea R168). -/
  dec_sum : s.act = .dec → s.rcnt.toNat < 32 ∧ s.sum = delta * BitVec.ofNat 32 (32 - s.rcnt.toNat)
  /-- OUT_LEN is 0 to 8 (10_state R37). -/
  outLen_le : s.outLen.toNat ≤ 8
  /-- 1 ≤ MSG_CAP (00_scope R8). -/
  cap_pos : 1 ≤ s.msgCap
  /-- MSG_CAP ≤ 2^32 - 1 (00_scope R8). -/
  cap_le : s.msgCap ≤ 4294967295
  /-- MSG_LEN ≤ MSG_CAP (10_state R35). -/
  msgLen_le : s.msgLen.toNat ≤ s.msgCap
  /-- MSG is in its canonical form (log 3). -/
  msg_wf : Memory.wf s.msg
  /-- MSG has MSG_CAP bytes: no other is listed (10_state R43). -/
  msg_in_range : ∀ c ∈ s.msg, c.1 < s.msgCap
  /-- The host's variables are in their canonical form. -/
  vars_wf : cellsRise s.host.vars
  /-- The host's program goes to labels it holds (log 13). -/
  prog_wf : programWellFormed s.host.prog = true

/-- The transaction a host line performs: only WR, RD, WB and RB are transactions (30_encoding R104). -/
def lineTransaction (s : State) : Line → Option Transaction
  | .wr n w => some (.regWrite n (w.value s))
  | .rd n _ => some (.regRead n)
  | .wb i b => some (.msgWrite (i.value s) ((b.value s).setWidth 8))
  | .rb i _ => some (.msgRead (i.value s))
  | .label _ | .bnz .. | .bltu .. | .set .. | .add .. | .sub .. | .min .. | .comment => none

/-- The transaction of the host's next line, if it is one. -/
def nextLineTransaction (s : State) : Option Transaction := s.host.prog[s.host.line]?.bind (lineTransaction s)

/-- The host transaction the next step performs, if it performs one. -/
def nextTransaction (s : State) : Option Transaction :=
  match s.inputs with
  | .host t :: _ => some t
  | .hostLine :: _ => nextLineTransaction s
  | .commandRun w :: _ => some (.regWrite 0 w)
  | .engine :: _ => none
  | .reset :: _ => none
  | [] => if s.busy then none else nextLineTransaction s

/-- The next step is the platform's reset (70_reset R250). -/
def nextIsReset (s : State) : Bool := s.inputs.head? == some .reset

/-- The error a transaction is to record: the causes of 60_exceptions R221, the first in the order of R223. -/
def errorCause (s : State) : Transaction → Option ErrorCode
  | .regWrite n w =>
    if 0x1A ≤ n.toNat ∨ n = 0x08 ∨ n = 0x0C ∨ (0x12 ≤ n.toNat ∧ n.toNat ≤ 0x19) then some .badAddr
    else if n = 0x01 then none
    else if n = 0x00 then
      if s.busy then some .busyCmd else if legal w then none else some .illegalCmd
    else if s.busy then some .busyWrite
    else none
  | .msgWrite i _ =>
    if s.msgCap ≤ i.toNat then some .badAddr else if s.busy then some .busyWrite else none
  | .regRead _ => none
  | .msgRead _ => none

/-- How many engine steps the active command still needs (30_encoding R97). -/
def remainingParts (s : State) : Nat :=
  match s.act with
  | .none => 0
  | .enc | .dec => 32 - s.rcnt.toNat
  | .pad | .render | .pack | .unpack => 1

/-- OUT0 to OUT7 by number (10_state R38). -/
def State.outByte (s : State) : Nat → Byte
  | 0 => s.out0
  | 1 => s.out1
  | 2 => s.out2
  | 3 => s.out3
  | 4 => s.out4
  | 5 => s.out5
  | 6 => s.out6
  | _ => s.out7

/-- The host variable a line sets, if it sets one (30_encoding R104). -/
def Line.sets : Line → Option Nat
  | .rd _ v | .rb _ v | .set v _ | .add v _ | .sub v _ _ | .min v _ _ => some v
  | .wr .. | .wb .. | .label _ | .bnz .. | .bltu .. | .comment => none

/-- What may happen while a command is active, short of reset: any move of the engine or the host. -/
def Move.isTraffic : Move → Bool
  | .host _ | .hostLine | .commandRun _ | .engine => true
  | .reset => false

/-- `t` is `u` but for what host traffic during a command can leave behind: the recorded error, the last read and its draw,
the schedule, and how far the host's program has come. -/
def SameButTraffic (t u : State) : Prop :=
  t = { u with
    err := t.err, ecode := t.ecode, lastRead := t.lastRead, draws := t.draws, inputs := t.inputs, host := t.host }

end Sys2Proof.Machine
end

