-- ==== Sys2Proof/Certificates/Slice0/Obligations.lean ====
section
/-! DEFINITION. The statements for the provers. Each docstring names the rule of spec/ it formalises; notes/assumptions/<n>.md
is "log n". -/

open Sys2Proof Sys2Proof.Machine

/-! ## The command word -/

/-- 30_encoding R91, R94: the seven command words, written out, and the command each one is. -/
def Obligations.CommandWordsDecode : Prop :=
  decode 0x00000001 = some .enc ∧ decode 0x00000002 = some .dec ∧ decode 0x00000003 = some .pad ∧
  decode 0x00000004 = some .render ∧ decode 0x00000014 = some .renderVc ∧ decode 0x00000005 = some .pack ∧
  decode 0x00000006 = some .unpack

/-- 30_encoding R94: the legality predicate, and the seven words it admits. -/
def Obligations.LegalWordsAreTheSeven : Prop :=
  ∀ w : Word,
    (legal w = true ↔ w.extractLsb' 5 27 = 0 ∧
      (1 ≤ (w.extractLsb' 0 4).toNat ∧ (w.extractLsb' 0 4).toNat ≤ 6) ∧
      (w.getLsbD 4 = false ∨ w.extractLsb' 0 4 = 4)) ∧
    (legal w = true ↔ w = 0x00000001 ∨ w = 0x00000002 ∨ w = 0x00000003 ∨ w = 0x00000004 ∨ w = 0x00000014 ∨
      w = 0x00000005 ∨ w = 0x00000006)

/-- Decode and encode agree in both directions: each command has one word and each legal word one command
(30_encoding R90 to R94). -/
def Obligations.DecodeEncodeAgree : Prop :=
  ∀ (w : Word) (i : Instr), (decode w = some i ↔ w = encode i) ∧ (legal w = true ↔ ∃ j, decode w = some j)

/-- 30_encoding R101: which words are illegal, and that writing one while BUSY = 0 records ILLEGAL_CMD and nothing else. -/
def Obligations.IllegalWordsAreRejected : Prop :=
  (∀ w : Word, legal w = false ↔
    (w.extractLsb' 0 4 = 0 ∨ 7 ≤ (w.extractLsb' 0 4).toNat) ∨ w.extractLsb' 5 27 ≠ 0 ∨
      (w.getLsbD 4 = true ∧ w.extractLsb' 0 4 ≠ 4)) ∧
  (∀ (w : Word) (s : State), legal w = false → s.busy = false →
    decode w = none ∧ transact (.regWrite 0x00 w) s = { s with err := true, ecode := .illegalCmd }) ∧
  legal 0x00000000 = false

/-! ## A step -/

/-- A step runs the decoded command: the word at the head of the schedule is decoded and the command's whole meaning runs
(30_encoding R95, R99); a busy block rejects any word and an idle one an illegal word, as R95 says of a write to CMD. The
schedule and the command run as one step are the model's (log 7, 8, 9). -/
def Obligations.StepRunsDecodedCommand : Prop :=
  (∀ (s : State) (w : Word) (rest : List Move) (i : Instr), s.inputs = .commandRun w :: rest → decode w = some i →
    step s = exec i { s with inputs := rest }) ∧
  (∀ (s : State) (i : Instr), step (s.withFetchWord 32 (encode i).toNat) = exec i s) ∧
  (∀ (s : State) (w : Word) (rest : List Move), s.inputs = .commandRun w :: rest → s.busy = true →
    step s = .next { s with err := true, ecode := .busyCmd, inputs := rest }) ∧
  (∀ (s : State) (w : Word) (rest : List Move), s.inputs = .commandRun w :: rest → s.busy = false → legal w = false →
    step s = .next { s with err := true, ecode := .illegalCmd, inputs := rest })

/-- A step is the head move of the schedule; with none scheduled the engine moves while BUSY = 1, else the host's next line;
an idle block whose host has no line left does nothing, nor does a host with no line left (20_memory R75; 60_exceptions
R232). The schedule and the move made without one are the model's (log 8, 12). -/
def Obligations.StepPerformsScheduledMove : Prop :=
  (∀ (s : State) (t : Transaction) (rest : List Move), s.inputs = .host t :: rest →
    step s = .next (transact t { s with inputs := rest })) ∧
  (∀ (s : State) (rest : List Move), s.inputs = .engine :: rest → step s = engineStep { s with inputs := rest }) ∧
  (∀ (s : State) (rest : List Move) (x : Line), s.inputs = .hostLine :: rest → s.host.prog[s.host.line]? = some x →
    step s = runLine x { s with inputs := rest }) ∧
  (∀ (s : State) (rest : List Move), s.inputs = .hostLine :: rest → s.host.prog[s.host.line]? = none →
    step s = .next { s with inputs := rest }) ∧
  (∀ s : State, s.inputs = [] → s.busy = true → step s = engineStep s) ∧
  (∀ (s : State) (x : Line), s.inputs = [] → s.busy = false → s.host.prog[s.host.line]? = some x →
    step s = runLine x s) ∧
  (∀ s : State, s.inputs = [] → s.busy = false → s.host.prog[s.host.line]? = none → step s = .next s)

/-! ## Reset -/

/-- 70_reset R250: the reset event, from every state, busy or not. -/
def Obligations.ResetSetsEveryRegister : Prop :=
  ∀ (s : State) (rest : List Move), s.inputs = .reset :: rest →
    ∃ t, step s = .next t ∧
      t.busy = false ∧ t.done = false ∧ t.err = false ∧ t.ecode = .none ∧ t.rcnt = 0 ∧ statusWord t = 0x00000000 ∧
      t.sum = 0 ∧ t.offset = 0 ∧ t.msgLen = 0 ∧ t.vcount = 0 ∧ t.outLen = 0 ∧ t.act = .none ∧ t.actVc = false ∧
      (∀ r ∈ [Reg.cb0, .cb1, .cb2, .cb3, .out0, .out1, .out2, .out3, .out4, .out5, .out6, .out7],
        (regValue t r).extractLsb' 8 24 = 0)

/-- 70_reset R252 in the model's form (log 1, 2, 3, 10): what a reset leaves unspecified is the draw of that reset's own
number, one draw a register and one a byte of MSG. What a reset step keeps, being no state of the block, is the model's
choice (log 10). -/
def Obligations.ResetDrawsAreFresh : Prop :=
  ∀ (s : State) (rest : List Move), s.inputs = .reset :: rest →
    ∃ t, step s = .next t ∧ t.resets = s.resets + 1 ∧
      t.v0 = Config.resetWord (s.resets + 1) 0x02 ∧ t.v1 = Config.resetWord (s.resets + 1) 0x03 ∧
      t.k0 = Config.resetWord (s.resets + 1) 0x04 ∧ t.k1 = Config.resetWord (s.resets + 1) 0x05 ∧
      t.k2 = Config.resetWord (s.resets + 1) 0x06 ∧ t.k3 = Config.resetWord (s.resets + 1) 0x07 ∧
      t.cw = Config.resetWord (s.resets + 1) 0x0D ∧
      t.cb0 = Config.resetByte (s.resets + 1) 0x0E ∧ t.cb1 = Config.resetByte (s.resets + 1) 0x0F ∧
      t.cb2 = Config.resetByte (s.resets + 1) 0x10 ∧ t.cb3 = Config.resetByte (s.resets + 1) 0x11 ∧
      t.out0 = Config.resetByte (s.resets + 1) 0x12 ∧ t.out1 = Config.resetByte (s.resets + 1) 0x13 ∧
      t.out2 = Config.resetByte (s.resets + 1) 0x14 ∧ t.out3 = Config.resetByte (s.resets + 1) 0x15 ∧
      t.out4 = Config.resetByte (s.resets + 1) 0x16 ∧ t.out5 = Config.resetByte (s.resets + 1) 0x17 ∧
      t.out6 = Config.resetByte (s.resets + 1) 0x18 ∧ t.out7 = Config.resetByte (s.resets + 1) 0x19 ∧
      (∀ a, t.readMsg a = Config.resetMsgByte (s.resets + 1) a) ∧
      t.inputs = rest ∧ t.host = s.host ∧ t.msgCap = s.msgCap ∧ t.draws = s.draws ∧ t.lastRead = s.lastRead

/-- 70_reset R251: the block is idle after reset and accepts each of the seven commands. -/
def Obligations.ResetBlockAcceptsCommands : Prop :=
  State.reset.busy = false ∧ statusWord State.reset = 0x00000000 ∧
  ∀ i : Instr, transact (.regWrite 0x00 (encode i)) State.reset = acceptCommand i State.reset ∧
    (acceptCommand i State.reset).busy = true

/-- The invariant holds right after reset. -/
def Obligations.ResetStateIsSound : Prop := State.reset.Inv

/-- The invariant is kept by every step, from every state that has it. -/
def Obligations.StepKeepsSoundness : Prop := ∀ s t : State, s.Inv → step s = .next t → t.Inv

/-- From a sound state the machine never stops: no trap, no error outcome, no hang (60_exceptions R220, R225). -/
def Obligations.SoundStatesNeverStop : Prop := ∀ s : State, s.Inv → ∃ t, step s = .next t ∧ t.Inv

/-- 60_exceptions R220: no command has an error outcome, on any operand value, and host reads raise no error. -/
def Obligations.NoCommandHasErrorOutcome : Prop :=
  (∀ (i : Instr) (s : State), s.busy = false →
    ∃ t, exec i s = .next t ∧ t.err = s.err ∧ t.ecode = s.ecode ∧ t.done = true) ∧
  (∀ (n : BitVec 6) (s : State), (transact (.regRead n) s).err = s.err ∧ (transact (.regRead n) s).ecode = s.ecode) ∧
  (∀ (i : Word) (s : State), (transact (.msgRead i) s).err = s.err ∧ (transact (.msgRead i) s).ecode = s.ecode)

/-! ## TeaCipher -/

/-- 42_tea R164: ENC's whole effect is TeaEnc of the Block and the Key, with SUM = 0xC6EF3720 and RCNT = 32, and nothing else
but the flags of completion. -/
def Obligations.EncComputesTeaEnc : Prop :=
  ∀ s : State, s.busy = false →
    exec .enc s = .next { s with
      v0 := (teaEnc s.v0 s.v1 s.k0 s.k1 s.k2 s.k3).1, v1 := (teaEnc s.v0 s.v1 s.k0 s.k1 s.k2 s.k3).2,
      sum := 0xC6EF3720, rcnt := 32, busy := false, done := true, act := .none, actVc := false }

/-- 42_tea R165, R166: DEC's whole effect is TeaDec of the Block and the Key, with SUM = 0 and RCNT = 32. -/
def Obligations.DecComputesTeaDec : Prop :=
  ∀ s : State, s.busy = false →
    exec .dec s = .next { s with
      v0 := (teaDec s.v0 s.v1 s.k0 s.k1 s.k2 s.k3).1, v1 := (teaDec s.v0 s.v1 s.k0 s.k1 s.k2 s.k3).2,
      sum := 0, rcnt := 32, busy := false, done := true, act := .none, actVc := false }

/-- 42_tea R163: acceptance of ENC, each of its engine steps, a rejected ENC, and the rule's example. -/
def Obligations.EncAcceptanceAndRounds : Prop :=
  decode 0x00000001 = some .enc ∧
  (∀ s : State, s.busy = false → transact (.regWrite 0x00 0x00000001) s =
    { s with act := .enc, actVc := false, busy := true, done := false, sum := 0, rcnt := 0 }) ∧
  (∀ s : State, s.busy = true →
    transact (.regWrite 0x00 0x00000001) s = { s with err := true, ecode := .busyCmd }) ∧
  (∀ s : State, s.busy = true → s.act = .enc → ∃ t, engineStep s = .next t ∧
    t.sum = s.sum + 0x9E3779B9 ∧
    t.v0 = s.v0 + (((s.v1 <<< 4) + s.k0) ^^^ (s.v1 + t.sum) ^^^ ((s.v1 >>> 5) + s.k1)) ∧
    t.v1 = s.v1 + (((t.v0 <<< 4) + s.k2) ^^^ (t.v0 + t.sum) ^^^ ((t.v0 >>> 5) + s.k3)) ∧
    t.rcnt = s.rcnt + 1 ∧
    (t.rcnt = 32 → t = { s with
      sum := t.sum, v0 := t.v0, v1 := t.v1, rcnt := t.rcnt,
      busy := false, done := true, act := .none, actVc := false }) ∧
    (t.rcnt ≠ 32 → t = { s with sum := t.sum, v0 := t.v0, v1 := t.v1, rcnt := t.rcnt })) ∧
  (∀ s : State, s.busy = false → ∃ t, exec .enc s = .next t ∧ t.sum = 0xC6EF3720 ∧ t.rcnt = 32 ∧
    t.busy = false ∧ t.done = true) ∧
  teaEnc 0x484F4C41 0x31323334 0x12345678 0x9ABCDEF0 0xFEDCBA98 0x76543210 = (0xBE91739F, 0xC5B30D30) ∧
  teaEnc 0 0 0 0 0 0 = (0x41EA3A0A, 0x94BAA940)

/-- 42_tea R166: acceptance of DEC, each of its engine steps, a rejected DEC, and the rule's example. -/
def Obligations.DecAcceptanceAndRounds : Prop :=
  decode 0x00000002 = some .dec ∧
  (∀ s : State, s.busy = false → transact (.regWrite 0x00 0x00000002) s =
    { s with act := .dec, actVc := false, busy := true, done := false, sum := 0xC6EF3720, rcnt := 0 }) ∧
  (∀ s : State, s.busy = true →
    transact (.regWrite 0x00 0x00000002) s = { s with err := true, ecode := .busyCmd }) ∧
  (∀ s : State, s.busy = true → s.act = .dec → ∃ t, engineStep s = .next t ∧
    t.v1 = s.v1 - (((s.v0 <<< 4) + s.k2) ^^^ (s.v0 + s.sum) ^^^ ((s.v0 >>> 5) + s.k3)) ∧
    t.v0 = s.v0 - (((t.v1 <<< 4) + s.k0) ^^^ (t.v1 + s.sum) ^^^ ((t.v1 >>> 5) + s.k1)) ∧
    t.sum = s.sum - 0x9E3779B9 ∧
    t.rcnt = s.rcnt + 1 ∧
    (t.rcnt = 32 → t = { s with
      sum := t.sum, v0 := t.v0, v1 := t.v1, rcnt := t.rcnt,
      busy := false, done := true, act := .none, actVc := false }) ∧
    (t.rcnt ≠ 32 → t = { s with sum := t.sum, v0 := t.v0, v1 := t.v1, rcnt := t.rcnt })) ∧
  (∀ s : State, s.busy = false → ∃ t, exec .dec s = .next t ∧ t.v0 = (teaDec s.v0 s.v1 s.k0 s.k1 s.k2 s.k3).1 ∧
    t.v1 = (teaDec s.v0 s.v1 s.k0 s.k1 s.k2 s.k3).2 ∧ t.sum = 0 ∧ t.rcnt = 32 ∧ t.busy = false ∧ t.done = true) ∧
  teaDec 0xBE91739F 0xC5B30D30 0x12345678 0x9ABCDEF0 0xFEDCBA98 0x76543210 = (0x484F4C41, 0x31323334) ∧
  teaDec 0 0 0 0 0 0 = (0x1423FF6D, 0x9216EF3A)

/-- 42_tea R162: DELTA * 32 modulo 2^32, and DELTA accumulated 32 times. -/
def Obligations.DeltaTimes32IsTheConstant : Prop :=
  delta * 32 = 0xC6EF3720 ∧ deltaTimes32 = 0xC6EF3720 ∧ (List.replicate 32 delta).foldl (· + ·) 0 = 0xC6EF3720

/-- 42_tea R168: the sum schedule of both directions, and DEC's round undoing ENC's with the same sum. -/
def Obligations.SumSchedule : Prop :=
  (∀ (s : State) (r : Nat), s.busy = false → 1 ≤ r → r ≤ 32 →
    ∃ u t, engineSteps (r - 1) (acceptCommand .enc s) = .next u ∧ engineStep u = .next t ∧
      t.sum = delta * BitVec.ofNat 32 r ∧
      t.v0 = u.v0 + mix u.v1 (delta * BitVec.ofNat 32 r) s.k0 s.k1 ∧
      t.v1 = u.v1 + mix t.v0 (delta * BitVec.ofNat 32 r) s.k2 s.k3) ∧
  (∀ (s : State) (r : Nat), s.busy = false → 1 ≤ r → r ≤ 32 →
    ∃ u t, engineSteps (r - 1) (acceptCommand .dec s) = .next u ∧ engineStep u = .next t ∧
      t.sum = delta * BitVec.ofNat 32 (32 - r) ∧
      t.v1 = u.v1 - mix u.v0 (delta * BitVec.ofNat 32 (33 - r)) s.k2 s.k3 ∧
      t.v0 = u.v0 - mix t.v1 (delta * BitVec.ofNat 32 (33 - r)) s.k0 s.k1) ∧
  (∀ s : State, (decRound (encRound s)).v0 = s.v0 ∧ (decRound (encRound s)).v1 = s.v1 ∧
    (decRound (encRound s)).sum = s.sum) ∧
  delta * 1 = 0x9E3779B9 ∧ delta * 2 = 0x3C6EF372 ∧ delta * 31 = 0x28B7BD67 ∧ delta * 32 = 0xC6EF3720

/-- 42_tea R167: the round trip, in both orders, for every Block and every Key. -/
def Obligations.RoundTripRestoresBlock : Prop :=
  (∀ v0 v1 k0 k1 k2 k3 : Word,
    teaDec (teaEnc v0 v1 k0 k1 k2 k3).1 (teaEnc v0 v1 k0 k1 k2 k3).2 k0 k1 k2 k3 = (v0, v1) ∧
    teaEnc (teaDec v0 v1 k0 k1 k2 k3).1 (teaDec v0 v1 k0 k1 k2 k3).2 k0 k1 k2 k3 = (v0, v1)) ∧
  (∀ s : State, s.busy = false →
    (∃ t u, exec .enc s = .next t ∧ exec .dec t = .next u ∧ u.v0 = s.v0 ∧ u.v1 = s.v1) ∧
    (∃ t u, exec .dec s = .next t ∧ exec .enc t = .next u ∧ u.v0 = s.v0 ∧ u.v1 = s.v1))

/-- 42_tea R169: ENC and DEC are total, and their results depend on V0, V1 and K0 to K3 alone. -/
def Obligations.CipherDependsOnBlockAndKeyAlone : Prop :=
  ∀ s₁ s₂ : State, s₁.busy = false → s₂.busy = false → s₁.v0 = s₂.v0 → s₁.v1 = s₂.v1 → s₁.k0 = s₂.k0 →
    s₁.k1 = s₂.k1 → s₁.k2 = s₂.k2 → s₁.k3 = s₂.k3 → ∀ i : Instr, i = .enc ∨ i = .dec →
    ∃ t₁ t₂, exec i s₁ = .next t₁ ∧ exec i s₂ = .next t₂ ∧ t₁.v0 = t₂.v0 ∧ t₁.v1 = t₂.v1 ∧ t₁.sum = t₂.sum ∧
      t₁.rcnt = t₂.rcnt

/-- The frame of ENC and DEC, from every state: V0, V1, SUM, RCNT and the flags of acceptance and completion aside, nothing
changes; a busy block changes ERR and ECODE alone (42_tea R163, R166; 30_encoding R95). -/
def Obligations.CipherCommandsFrame : Prop :=
  ∀ (i : Instr) (s t : State), i = .enc ∨ i = .dec → exec i s = .next t →
    (t.k0 = s.k0 ∧ t.k1 = s.k1 ∧ t.k2 = s.k2 ∧ t.k3 = s.k3 ∧ t.offset = s.offset ∧ t.msgLen = s.msgLen ∧
      t.vcount = s.vcount ∧ t.outLen = s.outLen ∧ t.cw = s.cw ∧ t.cb0 = s.cb0 ∧ t.cb1 = s.cb1 ∧ t.cb2 = s.cb2 ∧
      t.cb3 = s.cb3 ∧ ∀ j < 8, t.outByte j = s.outByte j) ∧
    (∀ a, t.readMsg a = s.readMsg a) ∧
    (t.msgCap = s.msgCap ∧ t.resets = s.resets ∧ t.draws = s.draws ∧ t.lastRead = s.lastRead ∧ t.inputs = s.inputs ∧
      t.host = s.host) ∧
    (s.busy = false → t.err = s.err ∧ t.ecode = s.ecode) ∧
    (s.busy = true → t.v0 = s.v0 ∧ t.v1 = s.v1 ∧ t.sum = s.sum ∧ t.rcnt = s.rcnt ∧ t.busy = true ∧ t.done = s.done ∧
      t.act = s.act ∧ t.actVc = s.actVc)

/-! ## WordCodec -/

/-- 40_codec R120, R121, R122: both codec functions, byte 0 most significant, and that they are inverses. -/
def Obligations.CodecFunctionsAreInverse : Prop :=
  (∀ b0 b1 b2 b3 : Byte,
    be32 b0 b1 b2 b3 =
      (b0.setWidth 32 <<< 24) ||| (b1.setWidth 32 <<< 16) ||| (b2.setWidth 32 <<< 8) ||| b3.setWidth 32 ∧
    be32 b0 b1 b2 b3 = b0 ++ b1 ++ b2 ++ b3 ∧
    unbe32 (be32 b0 b1 b2 b3) 0 = b0 ∧ unbe32 (be32 b0 b1 b2 b3) 1 = b1 ∧
    unbe32 (be32 b0 b1 b2 b3) 2 = b2 ∧ unbe32 (be32 b0 b1 b2 b3) 3 = b3) ∧
  (∀ w : Word,
    unbe32 w 0 = w.extractLsb' 24 8 ∧ unbe32 w 1 = w.extractLsb' 16 8 ∧ unbe32 w 2 = w.extractLsb' 8 8 ∧
    unbe32 w 3 = w.extractLsb' 0 8 ∧
    be32 (unbe32 w 0) (unbe32 w 1) (unbe32 w 2) (unbe32 w 3) = w)

/-- 40_codec R123: PACK's word, its whole effect, a rejected PACK, and the rule's example. -/
def Obligations.PackWritesCw : Prop :=
  decode 0x00000005 = some .pack ∧
  (∀ s : State, s.busy = false →
    exec .pack s = .next { s with
      cw := s.cb0 ++ s.cb1 ++ s.cb2 ++ s.cb3, busy := false, done := true, act := .none, actVc := false }) ∧
  (∀ s : State, s.busy = false → ∃ u, transact (.regWrite 0x00 0x00000005) s = u ∧ u.busy = true ∧ u.done = false ∧
    engineSteps 1 u = exec .pack s) ∧
  (∀ (s : State) (r : Reg), r ∈ [Reg.cb0, .cb1, .cb2, .cb3] → (regValue s r).extractLsb' 8 24 = 0) ∧
  (∀ s : State, s.busy = true → exec .pack s = .next { s with err := true, ecode := .busyCmd }) ∧
  be32 0x48 0x4F 0x4C 0x41 = 0x484F4C41 ∧ be32 0 0 0 0 = 0 ∧ be32 0xFF 0xFF 0xFF 0xFF = 0xFFFFFFFF

/-- 40_codec R124: UNPACK's word, its whole effect, a rejected UNPACK, and the rule's example. -/
def Obligations.UnpackWritesCb : Prop :=
  decode 0x00000006 = some .unpack ∧
  (∀ s : State, s.busy = false →
    exec .unpack s = .next { s with
      cb0 := s.cw.extractLsb' 24 8, cb1 := s.cw.extractLsb' 16 8, cb2 := s.cw.extractLsb' 8 8,
      cb3 := s.cw.extractLsb' 0 8, busy := false, done := true, act := .none, actVc := false }) ∧
  (∀ s : State, s.busy = false → ∃ u, transact (.regWrite 0x00 0x00000006) s = u ∧ u.busy = true ∧ u.done = false ∧
    engineSteps 1 u = exec .unpack s) ∧
  (∀ s : State, s.busy = true → exec .unpack s = .next { s with err := true, ecode := .busyCmd }) ∧
  (unbe32 0x31323334 0 = 0x31 ∧ unbe32 0x31323334 1 = 0x32 ∧ unbe32 0x31323334 2 = 0x33 ∧ unbe32 0x31323334 3 = 0x34) ∧
  (unbe32 0x80000001 0 = 0x80 ∧ unbe32 0x80000001 1 = 0 ∧ unbe32 0x80000001 2 = 0 ∧ unbe32 0x80000001 3 = 1) ∧
  (unbe32 0 0 = 0 ∧ unbe32 0 1 = 0 ∧ unbe32 0 2 = 0 ∧ unbe32 0 3 = 0)

/-- 40_codec R125: PACK then UNPACK leaves CB0 to CB3, UNPACK then PACK leaves CW. -/
def Obligations.PackAndUnpackUndoEachOther : Prop :=
  ∀ s : State, s.busy = false →
    (∃ t u, exec .pack s = .next t ∧ exec .unpack t = .next u ∧
      u.cb0 = s.cb0 ∧ u.cb1 = s.cb1 ∧ u.cb2 = s.cb2 ∧ u.cb3 = s.cb3) ∧
    (∃ t u, exec .unpack s = .next t ∧ exec .pack t = .next u ∧ u.cw = s.cw)

/-- The frame of PACK and UNPACK, from every state (40_codec R123, R124; 30_encoding R95): PACK writes CW, UNPACK CB0 to CB3. -/
def Obligations.CodecCommandsFrame : Prop :=
  ∀ (i : Instr) (s t : State), i = .pack ∨ i = .unpack → exec i s = .next t →
    (t.v0 = s.v0 ∧ t.v1 = s.v1 ∧ t.k0 = s.k0 ∧ t.k1 = s.k1 ∧ t.k2 = s.k2 ∧ t.k3 = s.k3 ∧ t.sum = s.sum ∧
      t.offset = s.offset ∧ t.msgLen = s.msgLen ∧ t.vcount = s.vcount ∧ t.outLen = s.outLen ∧
      ∀ j < 8, t.outByte j = s.outByte j) ∧
    (i = .pack → t.cb0 = s.cb0 ∧ t.cb1 = s.cb1 ∧ t.cb2 = s.cb2 ∧ t.cb3 = s.cb3) ∧
    (i = .unpack → t.cw = s.cw) ∧
    (∀ a, t.readMsg a = s.readMsg a) ∧
    (t.msgCap = s.msgCap ∧ t.resets = s.resets ∧ t.draws = s.draws ∧ t.lastRead = s.lastRead ∧ t.inputs = s.inputs ∧
      t.host = s.host) ∧
    t.rcnt = s.rcnt ∧ (s.busy = false → t.err = s.err ∧ t.ecode = s.ecode) ∧
    (s.busy = true → t.cw = s.cw ∧ t.cb0 = s.cb0 ∧ t.cb1 = s.cb1 ∧ t.cb2 = s.cb2 ∧ t.cb3 = s.cb3 ∧ t.busy = true ∧
      t.done = s.done ∧ t.act = s.act ∧ t.actVc = s.actVc)

/-! ## BlockPadder -/

/-- 41_block_padder R141, R142: PAD's whole effect; byte j is MSG[OFFSET + j], computed exactly, below MSG_LEN, else 0. -/
def Obligations.PadFormsZeroPaddedBlock : Prop :=
  ∀ (s : State) (byte : Nat → Byte), s.busy = false →
    (∀ j, byte j = if s.offset.toNat + j < s.msgLen.toNat then s.readMsg (s.offset.toNat + j) else 0x00) →
    exec .pad s = .next { s with
      v0 := byte 0 ++ byte 1 ++ byte 2 ++ byte 3, v1 := byte 4 ++ byte 5 ++ byte 6 ++ byte 7,
      busy := false, done := true, act := .none, actVc := false }

/-- 41_block_padder R143's corner cases: offset at or past the end, OFFSET = 0xFFFFFFFF in a sound state, and a rejected
PAD. -/
def Obligations.PadCornerCases : Prop :=
  (∀ s : State, s.busy = false → s.msgLen.toNat ≤ s.offset.toNat →
    ∃ t, exec .pad s = .next t ∧ t.v0 = 0 ∧ t.v1 = 0) ∧
  (∀ s : State, s.Inv → s.busy = false → s.offset = 0xFFFFFFFF →
    ∃ t, exec .pad s = .next t ∧ t.v0 = 0 ∧ t.v1 = 0) ∧
  (∀ s : State, s.busy = false → s.offset.toNat + 8 ≤ s.msgLen.toNat →
    ∃ t, exec .pad s = .next t ∧ (∀ j < 4, unbe32 t.v0 j = s.readMsg (s.offset.toNat + j)) ∧
      ∀ j < 4, unbe32 t.v1 j = s.readMsg (s.offset.toNat + 4 + j)) ∧
  (∀ s : State, s.busy = true → exec .pad s = .next { s with err := true, ecode := .busyCmd })

/-- 41_block_padder R140: PAD's block depends only on the message bytes at [OFFSET, OFFSET + 8) below MSG_LEN. -/
def Obligations.PadDependsOnlyOnItsBytes : Prop :=
  ∀ s₁ s₂ : State, s₁.busy = false → s₂.busy = false → s₁.offset = s₂.offset → s₁.msgLen = s₂.msgLen →
    (∀ a, s₁.offset.toNat ≤ a → a < s₁.offset.toNat + 8 → a < s₁.msgLen.toNat → s₁.readMsg a = s₂.readMsg a) →
    ∃ t₁ t₂, exec .pad s₁ = .next t₁ ∧ exec .pad s₂ = .next t₂ ∧ t₁.v0 = t₂.v0 ∧ t₁.v1 = t₂.v1

/-- The frame of PAD, from every state (41_block_padder R143; 30_encoding R95): V0 and V1 aside nothing changes but the flags
of completion; PAD does not advance OFFSET and does not write MSG. -/
def Obligations.PadFrame : Prop :=
  ∀ s t : State, exec .pad s = .next t →
    (t.k0 = s.k0 ∧ t.k1 = s.k1 ∧ t.k2 = s.k2 ∧ t.k3 = s.k3 ∧ t.sum = s.sum ∧ t.offset = s.offset ∧
      t.msgLen = s.msgLen ∧ t.vcount = s.vcount ∧ t.outLen = s.outLen ∧ t.cw = s.cw ∧ t.cb0 = s.cb0 ∧ t.cb1 = s.cb1 ∧
      t.cb2 = s.cb2 ∧ t.cb3 = s.cb3 ∧ ∀ j < 8, t.outByte j = s.outByte j) ∧
    (∀ a, t.readMsg a = s.readMsg a) ∧
    (t.msgCap = s.msgCap ∧ t.resets = s.resets ∧ t.draws = s.draws ∧ t.lastRead = s.lastRead ∧ t.inputs = s.inputs ∧
      t.host = s.host) ∧
    t.rcnt = s.rcnt ∧ (s.busy = false → t.err = s.err ∧ t.ecode = s.ecode) ∧
    (s.busy = true → t.v0 = s.v0 ∧ t.v1 = s.v1 ∧ t.busy = true ∧ t.done = s.done ∧ t.act = s.act ∧ t.actVc = s.actVc)

/-! ## BlockTextView -/

/-- 43_text R200, R201, R202: RENDER's and RENDER.VC's whole effect, n and r_i written out. -/
def Obligations.RenderWritesOut : Prop :=
  ∀ (i : Instr) (s : State) (n : Nat), i = .render ∨ i = .renderVc → s.busy = false →
    n = (if i = .render then 8 else (max 0 (min s.vcount.toInt 8)).toNat) →
    exec i s = .next { s with
      out0 := if 0 < n then s.v0.extractLsb' 24 8 else 0, out1 := if 1 < n then s.v0.extractLsb' 16 8 else 0,
      out2 := if 2 < n then s.v0.extractLsb' 8 8 else 0, out3 := if 3 < n then s.v0.extractLsb' 0 8 else 0,
      out4 := if 4 < n then s.v1.extractLsb' 24 8 else 0, out5 := if 5 < n then s.v1.extractLsb' 16 8 else 0,
      out6 := if 6 < n then s.v1.extractLsb' 8 8 else 0, out7 := if 7 < n then s.v1.extractLsb' 0 8 else 0,
      outLen := BitVec.ofNat 4 n, busy := false, done := true, act := .none, actVc := false }

/-- 43_text R202's corner cases of the count, and a rejected RENDER. -/
def Obligations.RenderCountCornerCases : Prop :=
  (∀ s : State, s.busy = false → ∃ t, exec .render s = .next t ∧ t.outLen = 8) ∧
  (∀ s : State, s.busy = false → s.vcount = 0 →
    ∃ t, exec .renderVc s = .next t ∧ t.outLen = 0 ∧ ∀ j < 8, t.outByte j = 0) ∧
  (∀ s : State, s.busy = false → 8 ≤ s.vcount.toNat → s.vcount.toNat < 0x80000000 →
    ∃ t, exec .renderVc s = .next t ∧ t.outLen = 8) ∧
  (∀ s : State, s.busy = false → 0x80000000 ≤ s.vcount.toNat →
    ∃ t, exec .renderVc s = .next t ∧ t.outLen = 0 ∧ ∀ j < 8, t.outByte j = 0) ∧
  (∀ (i : Instr) (s : State), i = .render ∨ i = .renderVc → s.busy = true →
    exec i s = .next { s with err := true, ecode := .busyCmd })

/-- The frame of RENDER and RENDER.VC, from every state (43_text R202; 30_encoding R95): OUT0 to OUT7 and OUT_LEN aside
nothing changes but the flags of completion. -/
def Obligations.RenderCommandsFrame : Prop :=
  ∀ (i : Instr) (s t : State), i = .render ∨ i = .renderVc → exec i s = .next t →
    (t.v0 = s.v0 ∧ t.v1 = s.v1 ∧ t.k0 = s.k0 ∧ t.k1 = s.k1 ∧ t.k2 = s.k2 ∧ t.k3 = s.k3 ∧ t.sum = s.sum ∧
      t.offset = s.offset ∧ t.msgLen = s.msgLen ∧ t.vcount = s.vcount ∧ t.cw = s.cw ∧ t.cb0 = s.cb0 ∧ t.cb1 = s.cb1 ∧
      t.cb2 = s.cb2 ∧ t.cb3 = s.cb3) ∧
    (∀ a, t.readMsg a = s.readMsg a) ∧
    (t.msgCap = s.msgCap ∧ t.resets = s.resets ∧ t.draws = s.draws ∧ t.lastRead = s.lastRead ∧ t.inputs = s.inputs ∧
      t.host = s.host) ∧
    t.rcnt = s.rcnt ∧ (s.busy = false → t.err = s.err ∧ t.ecode = s.ecode) ∧
    (s.busy = true → t.outLen = s.outLen ∧ (∀ j < 8, t.outByte j = s.outByte j) ∧ t.busy = true ∧ t.done = s.done ∧
      t.act = s.act ∧ t.actVc = s.actVc)

/-- 43_text R203: RENDER inverts PAD over the valid bytes, also with ENC and DEC between them. -/
def Obligations.RenderInvertsPad : Prop :=
  ∀ (s : State) (n : Nat), s.busy = false → s.offset.toNat < s.msgLen.toNat →
    n = min 8 (s.msgLen.toNat - s.offset.toNat) →
    (∃ a z, exec .pad s = .next a ∧ exec .renderVc (transact (.regWrite 0x0B (BitVec.ofNat 32 n)) a) = .next z ∧
      z.outLen.toNat = n ∧ ∀ i < n, z.outByte i = s.readMsg (s.offset.toNat + i)) ∧
    (∃ a b c z, exec .pad s = .next a ∧ exec .enc a = .next b ∧ exec .dec b = .next c ∧
      exec .renderVc (transact (.regWrite 0x0B (BitVec.ofNat 32 n)) c) = .next z ∧
      z.outLen.toNat = n ∧ ∀ i < n, z.outByte i = s.readMsg (s.offset.toNat + i))

/-! ## Acceptance, engine steps, completion -/

/-- 30_encoding R95: a word written to CMD, decided busy first and then by its legality. -/
def Obligations.CmdWriteDecision : Prop :=
  ∀ (w : Word) (s : State),
    (s.busy = true → transact (.regWrite 0x00 w) s = { s with err := true, ecode := .busyCmd }) ∧
    (s.busy = false → legal w = false → transact (.regWrite 0x00 w) s = { s with err := true, ecode := .illegalCmd }) ∧
    (s.busy = false → legal w = true → ∃ i, decode w = some i ∧ w = encode i ∧
      transact (.regWrite 0x00 w) s = acceptCommand i s)

/-- 30_encoding R96: what acceptance of each command leaves, in the host's write. -/
def Obligations.AcceptanceEffects : Prop :=
  ∀ s : State, s.busy = false →
    transact (.regWrite 0x00 0x00000001) s =
      { s with act := .enc, actVc := false, busy := true, done := false, sum := 0, rcnt := 0 } ∧
    transact (.regWrite 0x00 0x00000002) s =
      { s with act := .dec, actVc := false, busy := true, done := false, sum := 0xC6EF3720, rcnt := 0 } ∧
    transact (.regWrite 0x00 0x00000003) s = { s with act := .pad, actVc := false, busy := true, done := false } ∧
    transact (.regWrite 0x00 0x00000004) s = { s with act := .render, actVc := false, busy := true, done := false } ∧
    transact (.regWrite 0x00 0x00000014) s = { s with act := .render, actVc := true, busy := true, done := false } ∧
    transact (.regWrite 0x00 0x00000005) s = { s with act := .pack, actVc := false, busy := true, done := false } ∧
    transact (.regWrite 0x00 0x00000006) s = { s with act := .unpack, actVc := false, busy := true, done := false }

/-- An engine step writes the active command's destination set and the fields of STATUS that progress and completion write,
and nothing else; with BUSY = 0 the engine has no step (30_encoding R97, R98). -/
def Obligations.EngineStepWritesOnlyDestinationSet : Prop :=
  (∀ s : State, s.busy = false → engineStep s = .next s) ∧
  ∀ s t : State, s.busy = true → engineStep s = .next t →
    (∀ r : Reg, r ≠ .status → inDestSet s.act r = false → regValue t r = regValue s r) ∧
    (∀ a, t.readMsg a = s.readMsg a) ∧
    t.err = s.err ∧ t.ecode = s.ecode ∧ (s.act ≠ .enc → s.act ≠ .dec → t.rcnt = s.rcnt) ∧
    (t.busy = false → t.done = true ∧ t.act = .none ∧ t.actVc = false) ∧
    (t.busy = true → t.done = s.done ∧ t.act = s.act ∧ t.actVc = s.actVc) ∧
    (t.busy = false ↔ remainingParts s = 1)

/-- 30_encoding R99: a whole command as one step reaches the state its engine steps reach, and BUSY stays 1 until the last of
them. -/
def Obligations.AtomicFormEqualsEngineSteps : Prop :=
  ∀ (i : Instr) (s : State), s.busy = false →
    engineSteps (partCount i) (acceptCommand i s) = exec i s ∧
    ∀ k < partCount i, ∃ u, engineSteps k (acceptCommand i s) = .next u ∧ u.busy = true

/-- 30_encoding R100: from every sound busy state the command completes after the engine steps it still needs, at most 32.
That the engine moves when nothing is scheduled is the model's choice (log 8). -/
def Obligations.AcceptedCommandCompletes : Prop :=
  ∀ s : State, s.Inv → s.busy = true → s.inputs = [] →
    1 ≤ remainingParts s ∧ remainingParts s ≤ 32 ∧
    (∃ t : State, Host.Core.run Sys2Proof.core (remainingParts s) s = .next t ∧ t.busy = false ∧ t.done = true ∧
      t.act = .none) ∧
    ∀ k < remainingParts s, ∃ u : State, Host.Core.run Sys2Proof.core k s = .next u ∧ u.busy = true

/-- 20_memory R75, R76; 30_encoding R99: while a command is active, an engine step after any host transaction is the engine
step without it, but for the error, the read and its draw the transaction leaves. -/
def Obligations.HostTrafficCommutesWithEngine : Prop :=
  ∀ (s u : State) (x : Transaction), s.busy = true → engineStep s = .next u →
    ∃ v, engineStep (transact x s) = .next v ∧ SameButTraffic v u ∧ v.host = u.host

/-- 20_memory R75, R76: every interleaving of the host's moves with the engine steps a command still needs ends in the state
of the engine steps alone, but for the errors, reads and host progress the traffic leaves. The schedule is the model's form
of the interleaving (log 8). -/
def Obligations.EveryInterleavingCompletesAlike : Prop :=
  ∀ (s : State) (ms rest : List Move), s.Inv → s.busy = true → s.inputs = ms ++ .engine :: rest →
    (∀ m ∈ ms, m.isTraffic = true) → ms.count .engine + 1 = remainingParts s →
    ∃ t u : State, Host.Core.run Sys2Proof.core (ms.length + 1) s = .next t ∧
      engineSteps (remainingParts s) s = .next u ∧ t.busy = false ∧ t.done = true ∧ t.inputs = rest ∧
      SameButTraffic t u ∧ (.hostLine ∉ ms → t.host = u.host)

/-- 10_state R23: BUSY is set by the acceptance of a command and cleared by its completion or by reset, by nothing else, and is
never 1 without an active command. -/
def Obligations.OnlyAcceptanceAndCompletionChangeBusy : Prop :=
  (∀ s t : State, step s = .next t → s.busy = false → t.busy = true →
    ∃ w, nextTransaction s = some (.regWrite 0x00 w) ∧ legal w = true) ∧
  (∀ s t : State, step s = .next t → s.busy = true → t.busy = false →
    nextIsReset s = true ∨
      ((s.inputs = [] ∨ s.inputs.head? = some .engine) ∧ remainingParts s = 1 ∧ t.done = true)) ∧
  (∀ s t : State, s.Inv → step s = .next t → t.busy = true → t.act ≠ .none) ∧
  (∀ (w : Word) (s : State), s.busy = false → legal w = true → (transact (.regWrite 0x00 w) s).busy = true) ∧
  (∀ s : State, s.Inv → s.busy = true → remainingParts s = 1 → ∃ t, engineStep s = .next t ∧ t.busy = false)

/-- 10_state R24: DONE is cleared by the acceptance of a command and set by its completion, by nothing else but reset; a
transaction that records an error leaves it; BUSY = 1 implies DONE = 0. A command run as one step (log 7) sets it in that
step. -/
def Obligations.OnlyAcceptanceAndCompletionChangeDone : Prop :=
  (∀ s t : State, step s = .next t → s.done = true → t.done = false →
    nextIsReset s = true ∨
      (s.busy = false ∧ t.busy = true ∧ ∃ w, nextTransaction s = some (.regWrite 0x00 w) ∧ legal w = true)) ∧
  (∀ s t : State, step s = .next t → s.done = false → t.done = true →
    t.busy = false ∧ ((s.busy = true ∧ remainingParts s = 1) ∨
      (s.busy = false ∧ ∃ w, s.inputs.head? = some (.commandRun w) ∧ legal w = true))) ∧
  (∀ (x : Transaction) (c : ErrorCode) (s : State), errorCause s x = some c → (transact x s).done = s.done) ∧
  (∀ s t : State, s.Inv → step s = .next t → t.busy = true → t.done = false) ∧
  (∀ s t : State, s.busy = true → engineStep s = .next t → t.busy = false → t.done = true) ∧
  (∀ (w : Word) (s : State), s.busy = false → legal w = true → (transact (.regWrite 0x00 w) s).done = false)

/-! ## Host transactions -/

/-- 20_memory R63: RegWrite by the first matching case. -/
def Obligations.RegWriteFirstMatchingCase : Prop :=
  (∀ (n : BitVec 6) (w : Word) (s : State), 0x1A ≤ n.toNat ∨ n = 0x08 ∨ n = 0x0C ∨ (0x12 ≤ n.toNat ∧ n.toNat ≤ 0x19) →
    transact (.regWrite n w) s = { s with err := true, ecode := .badAddr }) ∧
  (∀ (w : Word) (s : State), transact (.regWrite 0x01 w) s =
    if w.getLsbD 2 then { s with err := false, ecode := .none } else s) ∧
  (∀ (w : Word) (s : State), transact (.regWrite 0x00 w) s = cmdWrite w s) ∧
  (∀ (n : BitVec 6) (w : Word) (s : State), s.busy = true →
    (0x02 ≤ n.toNat ∧ n.toNat ≤ 0x07) ∨ (0x09 ≤ n.toNat ∧ n.toNat ≤ 0x0B) ∨ (0x0D ≤ n.toNat ∧ n.toNat ≤ 0x11) →
    transact (.regWrite n w) s = { s with err := true, ecode := .busyWrite }) ∧
  (∀ (w : Word) (s : State), s.busy = false →
    transact (.regWrite 0x02 w) s = { s with v0 := w } ∧ transact (.regWrite 0x03 w) s = { s with v1 := w } ∧
    transact (.regWrite 0x04 w) s = { s with k0 := w } ∧ transact (.regWrite 0x05 w) s = { s with k1 := w } ∧
    transact (.regWrite 0x06 w) s = { s with k2 := w } ∧ transact (.regWrite 0x07 w) s = { s with k3 := w } ∧
    transact (.regWrite 0x09 w) s = { s with offset := w } ∧
    transact (.regWrite 0x0A w) s = { s with msgLen := if w.toNat ≤ s.msgCap then w else BitVec.ofNat 32 s.msgCap } ∧
    transact (.regWrite 0x0B w) s = { s with vcount := w } ∧ transact (.regWrite 0x0D w) s = { s with cw := w } ∧
    transact (.regWrite 0x0E w) s = { s with cb0 := w.extractLsb' 0 8 } ∧
    transact (.regWrite 0x0F w) s = { s with cb1 := w.extractLsb' 0 8 } ∧
    transact (.regWrite 0x10 w) s = { s with cb2 := w.extractLsb' 0 8 } ∧
    transact (.regWrite 0x11 w) s = { s with cb3 := w.extractLsb' 0 8 })

/-- 10_state R35: MSG_LEN stores the unsigned minimum of the written word and MSG_CAP, and reads as what it stores. -/
def Obligations.MsgLenIsClamped : Prop :=
  ∀ (w : Word) (s : State), s.Inv → s.busy = false →
    (transact (.regWrite 0x0A w) s).msgLen.toNat = min w.toNat s.msgCap ∧
    (transact (.regRead 0x0A) (transact (.regWrite 0x0A w) s)).lastRead =
      .word (transact (.regWrite 0x0A w) s).msgLen ∧
    (∀ j, s.msgLen.toNat ≤ s.offset.toNat + j → padByte s j = 0) ∧
    State.reset.msgLen = 0

/-- 20_memory R65: RegRead when no any-value rule applies; a read changes no state of the block. -/
def Obligations.RegReadReturnsRegister : Prop :=
  (∀ (n : BitVec 6) (s : State), n = 0x00 ∨ 0x1A ≤ n.toNat → transact (.regRead n) s = { s with lastRead := .word 0 }) ∧
  (∀ s : State, s.busy = false →
    (transact (.regRead 0x01) s).lastRead = .word (statusWord s) ∧
    (transact (.regRead 0x02) s).lastRead = .word s.v0 ∧ (transact (.regRead 0x03) s).lastRead = .word s.v1 ∧
    (transact (.regRead 0x04) s).lastRead = .word s.k0 ∧ (transact (.regRead 0x05) s).lastRead = .word s.k1 ∧
    (transact (.regRead 0x06) s).lastRead = .word s.k2 ∧ (transact (.regRead 0x07) s).lastRead = .word s.k3 ∧
    (transact (.regRead 0x08) s).lastRead = .word s.sum ∧ (transact (.regRead 0x09) s).lastRead = .word s.offset ∧
    (transact (.regRead 0x0A) s).lastRead = .word s.msgLen ∧ (transact (.regRead 0x0B) s).lastRead = .word s.vcount ∧
    (transact (.regRead 0x0C) s).lastRead = .word (0#28 ++ s.outLen) ∧
    (transact (.regRead 0x0D) s).lastRead = .word s.cw ∧
    (transact (.regRead 0x0E) s).lastRead = .word (0#24 ++ s.cb0) ∧
    (transact (.regRead 0x0F) s).lastRead = .word (0#24 ++ s.cb1) ∧
    (transact (.regRead 0x10) s).lastRead = .word (0#24 ++ s.cb2) ∧
    (transact (.regRead 0x11) s).lastRead = .word (0#24 ++ s.cb3) ∧
    ∀ j < 8, (transact (.regRead (BitVec.ofNat 6 (0x12 + j))) s).lastRead = .word (0#24 ++ s.outByte j)) ∧
  (∀ (n : BitVec 6) (s : State) (r : Reg), Reg.ofNumber n = some r → inDestSet s.act r = false →
    transact (.regRead n) s = { s with lastRead := .word (regValue s r) }) ∧
  (∀ (n : BitVec 6) (s : State), ∃ l d, transact (.regRead n) s = { s with lastRead := l, draws := d })

/-- Reads of a destination-set register while BUSY = 1 return any value: the next free draw, of the register's width, RCNT's in
0 to 32 (10_state R45; the draw counter is the model's, log 5, and OUT_LEN's width log 6). -/
def Obligations.BusyReadReturnsAnyValue : Prop :=
  ∀ s : State, s.busy = true →
    (∀ n : BitVec 6,
      ((s.act = .enc ∨ s.act = .dec) ∧ (n = 0x02 ∨ n = 0x03 ∨ n = 0x08)) ∨ (s.act = .pad ∧ (n = 0x02 ∨ n = 0x03)) ∨
        (s.act = .pack ∧ n = 0x0D) →
      transact (.regRead n) s = { s with lastRead := .word (Config.busyReadWord s.draws), draws := s.draws + 1 }) ∧
    (∀ n : BitVec 6,
      (s.act = .unpack ∧ 0x0E ≤ n.toNat ∧ n.toNat ≤ 0x11) ∨ (s.act = .render ∧ 0x12 ≤ n.toNat ∧ n.toNat ≤ 0x19) →
      transact (.regRead n) s =
        { s with lastRead := .word (0#24 ++ Config.busyReadByte s.draws), draws := s.draws + 1 }) ∧
    (s.act = .render → transact (.regRead 0x0C) s =
      { s with lastRead := .word (0#28 ++ Config.busyReadLen s.draws), draws := s.draws + 1 }) ∧
    (s.act = .enc ∨ s.act = .dec → ∃ w : Word,
      transact (.regRead 0x01) s = { s with lastRead := .word w, draws := s.draws + 1 } ∧
      w.extractLsb' 0 8 = (statusWord s).extractLsb' 0 8 ∧ w.extractLsb' 14 18 = 0 ∧ (w.extractLsb' 8 6).toNat ≤ 32)

/-- 10_state R28, with the places of the fields (R22): STATUS bits 3 and 31:14 always read 0. -/
def Obligations.StatusWordLayout : Prop :=
  (∀ s : State, (statusWord s).getLsbD 0 = s.busy ∧ (statusWord s).getLsbD 1 = s.done ∧
    (statusWord s).getLsbD 2 = s.err ∧ (statusWord s).extractLsb' 4 4 = s.ecode.code ∧
    (statusWord s).extractLsb' 8 6 = s.rcnt) ∧
  ∀ s : State, ∃ w : Word, (transact (.regRead 0x01) s).lastRead = .word w ∧ w.getLsbD 3 = false ∧
    ∀ k, 14 ≤ k → w.getLsbD k = false

/-- 10_state R20: the register map; the 26 registers have the numbers 0x00 to 0x19 and the rest are reserved. -/
def Obligations.RegisterMapIsInjective : Prop :=
  (∀ r : Reg, Reg.ofNumber r.number = some r) ∧
  (∀ (n : BitVec 6) (r : Reg), Reg.ofNumber n = some r → r.number = n) ∧
  (∀ n : BitVec 6, Reg.ofNumber n = none ↔ 0x1A ≤ n.toNat)

/-- 20_memory R64: MsgWrite by the first matching case, through reads of MSG. -/
def Obligations.MsgWriteFirstMatchingCase : Prop :=
  ∀ (i : Word) (b : Byte) (s : State),
    (s.msgCap ≤ i.toNat → transact (.msgWrite i b) s = { s with err := true, ecode := .badAddr }) ∧
    (i.toNat < s.msgCap → s.busy = true → transact (.msgWrite i b) s = { s with err := true, ecode := .busyWrite }) ∧
    (i.toNat < s.msgCap → s.busy = false →
      transact (.msgWrite i b) s = { s with msg := (transact (.msgWrite i b) s).msg } ∧
      (transact (.msgWrite i b) s).readMsg i.toNat = b ∧
      ∀ a, a ≠ i.toNat → (transact (.msgWrite i b) s).readMsg a = s.readMsg a)

/-- 20_memory R66: MsgRead, which never changes the block's state and records no error. -/
def Obligations.MsgReadReturnsStoredByte : Prop :=
  ∀ (i : Word) (s : State),
    (i.toNat < s.msgCap → transact (.msgRead i) s = { s with lastRead := .byte (s.readMsg i.toNat) }) ∧
    (s.msgCap ≤ i.toNat → transact (.msgRead i) s = { s with lastRead := .byte 0x00 })

/-- 60_exceptions R221, R222, R223: which transactions record an error and which one; a recorded error is the transaction's
only effect, and a transaction with no cause records none. -/
def Obligations.ErrorCausesPriorityAndPrecision : Prop :=
  ∀ (x : Transaction) (s : State),
    (∀ c, errorCause s x = some c → transact x s = { s with err := true, ecode := c }) ∧
    (errorCause s x = none → (transact x s).err = true → s.err = true ∧ (transact x s).ecode = s.ecode) ∧
    ErrorCode.none.code = 0 ∧ ErrorCode.illegalCmd.code = 1 ∧ ErrorCode.busyCmd.code = 2 ∧ ErrorCode.busyWrite.code = 3 ∧
    ErrorCode.badAddr.code = 4

/-- 10_state R25: ERR is sticky until a STATUS write with bit 2 set or reset; such a write clears ERR and ECODE and changes
nothing else, and a STATUS write without bit 2 changes nothing, busy or not. -/
def Obligations.ErrorIsStickyUntilCleared : Prop :=
  (∀ (w : Word) (s : State), w.getLsbD 2 = true →
    transact (.regWrite 0x01 w) s = { s with err := false, ecode := .none }) ∧
  (∀ (w : Word) (s : State), w.getLsbD 2 = false → transact (.regWrite 0x01 w) s = s) ∧
  (∀ (c : ErrorCode) (s : State), (raiseError c s).err = true) ∧
  (∀ s t : State, step s = .next t → s.err = true → t.err = false →
    nextIsReset s = true ∨ ∃ w, nextTransaction s = some (.regWrite 0x01 w) ∧ w.getLsbD 2 = true)

/-- 20_memory R76: while BUSY = 1 a host transaction changes nothing but the recorded error and what the host read, and no step
short of reset changes an operand outside the active command's destination set. -/
def Obligations.BusyFreezesOperands : Prop :=
  (∀ (x : Transaction) (s : State), s.busy = true →
    ∃ e c l d, transact x s = { s with err := e, ecode := c, lastRead := l, draws := d }) ∧
  (∀ s t : State, s.busy = true → step s = .next t → nextIsReset s = false →
    (∀ r : Reg, r ≠ .status → inDestSet s.act r = false → regValue t r = regValue s r) ∧
    ∀ a, t.readMsg a = s.readMsg a)

/-- 10_state R30: no command writes the Key; only a host write to the key register itself changes it, never while BUSY = 1; and
the host may read it at any time. -/
def Obligations.KeyChangesOnlyByHostWrite : Prop :=
  (∀ s t : State, step s = .next t → nextIsReset s = false →
    ((∀ w, nextTransaction s ≠ some (.regWrite 0x04 w)) → t.k0 = s.k0) ∧
    ((∀ w, nextTransaction s ≠ some (.regWrite 0x05 w)) → t.k1 = s.k1) ∧
    ((∀ w, nextTransaction s ≠ some (.regWrite 0x06 w)) → t.k2 = s.k2) ∧
    ((∀ w, nextTransaction s ≠ some (.regWrite 0x07 w)) → t.k3 = s.k3) ∧
    (s.busy = true → t.k0 = s.k0 ∧ t.k1 = s.k1 ∧ t.k2 = s.k2 ∧ t.k3 = s.k3)) ∧
  (∀ (w : Word) (s : State), s.busy = true → ∀ n : BitVec 6, n = 0x04 ∨ n = 0x05 ∨ n = 0x06 ∨ n = 0x07 →
    transact (.regWrite n w) s = { s with err := true, ecode := .busyWrite }) ∧
  (∀ (w : Word) (s : State), s.busy = false →
    transact (.regWrite 0x04 w) s = { s with k0 := w } ∧ transact (.regWrite 0x05 w) s = { s with k1 := w } ∧
    transact (.regWrite 0x06 w) s = { s with k2 := w } ∧ transact (.regWrite 0x07 w) s = { s with k3 := w }) ∧
  (∀ s : State, transact (.regRead 0x04) s = { s with lastRead := .word s.k0 } ∧
    transact (.regRead 0x05) s = { s with lastRead := .word s.k1 } ∧
    transact (.regRead 0x06) s = { s with lastRead := .word s.k2 } ∧
    transact (.regRead 0x07) s = { s with lastRead := .word s.k3 })

/-- MSG changes only by a MsgWrite or reset: no command writes it (20_memory R61, R64). PAD reads it only inside MSG_CAP. -/
def Obligations.MsgChangesOnlyByHostWrite : Prop :=
  (∀ s t : State, step s = .next t → nextIsReset s = false → (∀ i b, nextTransaction s ≠ some (.msgWrite i b)) →
    ∀ a, t.readMsg a = s.readMsg a) ∧
  (∀ (s : State) (j : Nat), s.Inv → s.msgCap ≤ s.offset.toNat + j → padByte s j = 0)

/-! ## The host's program -/

/-- 30_encoding R104: WR, RD, WB and RB perform their transactions; the other lines touch no state of the block; every line
but a branch goes to the next one and sets no variable but its own; branches go where the table says. Variables and the
line number are the model's form of the host (log 12), the stop at a label the program does not hold its choice (log 13). -/
def Obligations.HostLinesDoTheirTransactions : Prop :=
  (∀ (x : Line) (s t : State) (y : Transaction), lineTransaction s x = some y → runLine x s = .next t →
    t = { transact y s with host := t.host } ∧ t.host.line = s.host.line + 1) ∧
  (∀ (x : Line) (s t : State), lineTransaction s x = none → runLine x s = .next t → t = { s with host := t.host }) ∧
  (∀ (x : Line) (s : State), x.target = none → ∃ t, runLine x s = .next t ∧ t.host.line = s.host.line + 1 ∧
    t.host.prog = s.host.prog ∧ ∀ u, x.sets ≠ some u → t.hostVar u = s.hostVar u) ∧
  (∀ (v : Nat) (mask : Word) (a b : Operand) (l : Label) (s : State), findLabel l s.host.prog 0 = none →
    runLine (.bnz v mask l) s =
      (if s.hostVar v &&& mask ≠ 0 then .fault .undefinedLabel else .next (s.atHostLine (s.host.line + 1))) ∧
    runLine (.bltu a b l) s =
      (if a.value s < b.value s then .fault .undefinedLabel else .next (s.atHostLine (s.host.line + 1)))) ∧
  (∀ (v k : Nat) (mask : Word) (l : Label) (s : State), findLabel l s.host.prog 0 = some k →
    runLine (.bnz v mask l) s =
      .next (s.atHostLine (if s.hostVar v &&& mask ≠ 0 then k else s.host.line + 1))) ∧
  (∀ (a b : Operand) (k : Nat) (l : Label) (s : State), findLabel l s.host.prog 0 = some k →
    runLine (.bltu a b l) s = .next (s.atHostLine (if a.value s < b.value s then k else s.host.line + 1))) ∧
  (∀ (v : Nat) (w a b : Operand) (s : State), ∃ t₁ t₂ t₃ t₄,
    runLine (.set v w) s = .next t₁ ∧ t₁.hostVar v = w.value s ∧
    runLine (.add v w) s = .next t₂ ∧ t₂.hostVar v = s.hostVar v + w.value s ∧
    runLine (.sub v a b) s = .next t₃ ∧ t₃.hostVar v = a.value s - b.value s ∧
    runLine (.min v a b) s = .next t₄ ∧ (t₄.hostVar v).toNat = min (a.value s).toNat (b.value s).toNat) ∧
  (∀ (n : BitVec 6) (v : Nat) (s : State), ∃ t w, runLine (.rd n v) s = .next t ∧
    (transact (.regRead n) s).lastRead = .word w ∧ t.hostVar v = w) ∧
  (∀ (i : Operand) (v : Nat) (s : State), ∃ t b, runLine (.rb i v) s = .next t ∧
    (transact (.msgRead (i.value s)) s).lastRead = .byte b ∧ t.hostVar v = 0#24 ++ b)

/-- 30_encoding R105: the expansions of the pseudo-instructions; STR's for every ASCII text, one MsgWrite a byte; and the
label of a WAIT is fresh at each use: in assembled source no other line defines it, provided the source itself writes no
label of the kind kept for WAIT (that kind, and its numbering by source line, are the model's: log 14). -/
def Obligations.PseudoInstructionsExpand : Prop :=
  (∀ (k j v : Nat) (src : List Source), (∀ n, Source.line (.label (.fresh n)) ∉ src) →
    src[j]? = some (.pseudo (.wait v)) →
    ∃ pre post, assemble k src =
        pre ++ [.label (.fresh (k + j)), .rd 0x01 v, .bnz v 0x1 (.fresh (k + j))] ++ post ∧
      ∀ x ∈ pre ++ post, x.defines ≠ some (.fresh (k + j))) ∧
  ∀ (f : Label) (a b c d : Operand) (v : Nat),
    Pseudo.expand f (.cmd .enc) = [.wr 0x00 (.lit 0x00000001)] ∧
    Pseudo.expand f (.cmd .dec) = [.wr 0x00 (.lit 0x00000002)] ∧
    Pseudo.expand f (.cmd .pad) = [.wr 0x00 (.lit 0x00000003)] ∧
    Pseudo.expand f (.cmd .render) = [.wr 0x00 (.lit 0x00000004)] ∧
    Pseudo.expand f (.cmd .renderVc) = [.wr 0x00 (.lit 0x00000014)] ∧
    Pseudo.expand f (.cmd .pack) = [.wr 0x00 (.lit 0x00000005)] ∧
    Pseudo.expand f (.cmd .unpack) = [.wr 0x00 (.lit 0x00000006)] ∧
    Pseudo.expand f (.wait v) = [.label f, .rd 0x01 v, .bnz v 0x1 f] ∧
    Pseudo.expand f (.key a b c d) = [.wr 0x04 a, .wr 0x05 b, .wr 0x06 c, .wr 0x07 d] ∧
    Pseudo.expand f (.blk a b) = [.wr 0x02 a, .wr 0x03 b] ∧
    Pseudo.expand f .clrErr = [.wr 0x01 (.lit 0x00000004)] ∧
    Pseudo.expand f (.str 0 ['H', 'O', 'L', 'A', '1', '2']) =
      [.wb (.lit 0) (.lit 0x48), .wb (.lit 1) (.lit 0x4F), .wb (.lit 2) (.lit 0x4C), .wb (.lit 3) (.lit 0x41),
       .wb (.lit 4) (.lit 0x31), .wb (.lit 5) (.lit 0x32)] ∧
    ∀ (i : Word) (text : List Char), (Pseudo.str i text).wellFormed = true →
      (Pseudo.expand f (.str i text)).length = text.length ∧
      ∀ k, (Pseudo.expand f (.str i text))[k]? =
        text[k]?.map fun c => Line.wb (.lit (i + BitVec.ofNat 32 k)) (.lit (BitVec.ofNat 32 c.toNat))
end

