-- ==== Sys2Proof/Laws/State.lean ====
section
/-! SUPPORT. One lemma per field per shared update of State, each true by rfl, so that no proof unfolds a record update. -/

namespace Sys2Proof.Machine

open Sys2Proof

/-! What `raiseError` leaves in each field. -/
@[simp] theorem raiseError_busy (c : ErrorCode) (s : State) : (raiseError c s).busy = s.busy := rfl
@[simp] theorem raiseError_done (c : ErrorCode) (s : State) : (raiseError c s).done = s.done := rfl
@[simp] theorem raiseError_err (c : ErrorCode) (s : State) : (raiseError c s).err = true := rfl
@[simp] theorem raiseError_ecode (c : ErrorCode) (s : State) : (raiseError c s).ecode = c := rfl
@[simp] theorem raiseError_rcnt (c : ErrorCode) (s : State) : (raiseError c s).rcnt = s.rcnt := rfl
@[simp] theorem raiseError_v0 (c : ErrorCode) (s : State) : (raiseError c s).v0 = s.v0 := rfl
@[simp] theorem raiseError_v1 (c : ErrorCode) (s : State) : (raiseError c s).v1 = s.v1 := rfl
@[simp] theorem raiseError_k0 (c : ErrorCode) (s : State) : (raiseError c s).k0 = s.k0 := rfl
@[simp] theorem raiseError_k1 (c : ErrorCode) (s : State) : (raiseError c s).k1 = s.k1 := rfl
@[simp] theorem raiseError_k2 (c : ErrorCode) (s : State) : (raiseError c s).k2 = s.k2 := rfl
@[simp] theorem raiseError_k3 (c : ErrorCode) (s : State) : (raiseError c s).k3 = s.k3 := rfl
@[simp] theorem raiseError_sum (c : ErrorCode) (s : State) : (raiseError c s).sum = s.sum := rfl
@[simp] theorem raiseError_offset (c : ErrorCode) (s : State) : (raiseError c s).offset = s.offset := rfl
@[simp] theorem raiseError_msgLen (c : ErrorCode) (s : State) : (raiseError c s).msgLen = s.msgLen := rfl
@[simp] theorem raiseError_vcount (c : ErrorCode) (s : State) : (raiseError c s).vcount = s.vcount := rfl
@[simp] theorem raiseError_outLen (c : ErrorCode) (s : State) : (raiseError c s).outLen = s.outLen := rfl
@[simp] theorem raiseError_cw (c : ErrorCode) (s : State) : (raiseError c s).cw = s.cw := rfl
@[simp] theorem raiseError_cb0 (c : ErrorCode) (s : State) : (raiseError c s).cb0 = s.cb0 := rfl
@[simp] theorem raiseError_cb1 (c : ErrorCode) (s : State) : (raiseError c s).cb1 = s.cb1 := rfl
@[simp] theorem raiseError_cb2 (c : ErrorCode) (s : State) : (raiseError c s).cb2 = s.cb2 := rfl
@[simp] theorem raiseError_cb3 (c : ErrorCode) (s : State) : (raiseError c s).cb3 = s.cb3 := rfl
@[simp] theorem raiseError_out0 (c : ErrorCode) (s : State) : (raiseError c s).out0 = s.out0 := rfl
@[simp] theorem raiseError_out1 (c : ErrorCode) (s : State) : (raiseError c s).out1 = s.out1 := rfl
@[simp] theorem raiseError_out2 (c : ErrorCode) (s : State) : (raiseError c s).out2 = s.out2 := rfl
@[simp] theorem raiseError_out3 (c : ErrorCode) (s : State) : (raiseError c s).out3 = s.out3 := rfl
@[simp] theorem raiseError_out4 (c : ErrorCode) (s : State) : (raiseError c s).out4 = s.out4 := rfl
@[simp] theorem raiseError_out5 (c : ErrorCode) (s : State) : (raiseError c s).out5 = s.out5 := rfl
@[simp] theorem raiseError_out6 (c : ErrorCode) (s : State) : (raiseError c s).out6 = s.out6 := rfl
@[simp] theorem raiseError_out7 (c : ErrorCode) (s : State) : (raiseError c s).out7 = s.out7 := rfl
@[simp] theorem raiseError_act (c : ErrorCode) (s : State) : (raiseError c s).act = s.act := rfl
@[simp] theorem raiseError_actVc (c : ErrorCode) (s : State) : (raiseError c s).actVc = s.actVc := rfl
@[simp] theorem raiseError_msg (c : ErrorCode) (s : State) : (raiseError c s).msg = s.msg := rfl
@[simp] theorem raiseError_msgCap (c : ErrorCode) (s : State) : (raiseError c s).msgCap = s.msgCap := rfl
@[simp] theorem raiseError_resets (c : ErrorCode) (s : State) : (raiseError c s).resets = s.resets := rfl
@[simp] theorem raiseError_draws (c : ErrorCode) (s : State) : (raiseError c s).draws = s.draws := rfl
@[simp] theorem raiseError_lastRead (c : ErrorCode) (s : State) : (raiseError c s).lastRead = s.lastRead := rfl
@[simp] theorem raiseError_inputs (c : ErrorCode) (s : State) : (raiseError c s).inputs = s.inputs := rfl
@[simp] theorem raiseError_host (c : ErrorCode) (s : State) : (raiseError c s).host = s.host := rfl

/-! What `clearError` leaves in each field. -/
@[simp] theorem clearError_busy (s : State) : (clearError s).busy = s.busy := rfl
@[simp] theorem clearError_done (s : State) : (clearError s).done = s.done := rfl
@[simp] theorem clearError_err (s : State) : (clearError s).err = false := rfl
@[simp] theorem clearError_ecode (s : State) : (clearError s).ecode = .none := rfl
@[simp] theorem clearError_rcnt (s : State) : (clearError s).rcnt = s.rcnt := rfl
@[simp] theorem clearError_v0 (s : State) : (clearError s).v0 = s.v0 := rfl
@[simp] theorem clearError_v1 (s : State) : (clearError s).v1 = s.v1 := rfl
@[simp] theorem clearError_k0 (s : State) : (clearError s).k0 = s.k0 := rfl
@[simp] theorem clearError_k1 (s : State) : (clearError s).k1 = s.k1 := rfl
@[simp] theorem clearError_k2 (s : State) : (clearError s).k2 = s.k2 := rfl
@[simp] theorem clearError_k3 (s : State) : (clearError s).k3 = s.k3 := rfl
@[simp] theorem clearError_sum (s : State) : (clearError s).sum = s.sum := rfl
@[simp] theorem clearError_offset (s : State) : (clearError s).offset = s.offset := rfl
@[simp] theorem clearError_msgLen (s : State) : (clearError s).msgLen = s.msgLen := rfl
@[simp] theorem clearError_vcount (s : State) : (clearError s).vcount = s.vcount := rfl
@[simp] theorem clearError_outLen (s : State) : (clearError s).outLen = s.outLen := rfl
@[simp] theorem clearError_cw (s : State) : (clearError s).cw = s.cw := rfl
@[simp] theorem clearError_cb0 (s : State) : (clearError s).cb0 = s.cb0 := rfl
@[simp] theorem clearError_cb1 (s : State) : (clearError s).cb1 = s.cb1 := rfl
@[simp] theorem clearError_cb2 (s : State) : (clearError s).cb2 = s.cb2 := rfl
@[simp] theorem clearError_cb3 (s : State) : (clearError s).cb3 = s.cb3 := rfl
@[simp] theorem clearError_out0 (s : State) : (clearError s).out0 = s.out0 := rfl
@[simp] theorem clearError_out1 (s : State) : (clearError s).out1 = s.out1 := rfl
@[simp] theorem clearError_out2 (s : State) : (clearError s).out2 = s.out2 := rfl
@[simp] theorem clearError_out3 (s : State) : (clearError s).out3 = s.out3 := rfl
@[simp] theorem clearError_out4 (s : State) : (clearError s).out4 = s.out4 := rfl
@[simp] theorem clearError_out5 (s : State) : (clearError s).out5 = s.out5 := rfl
@[simp] theorem clearError_out6 (s : State) : (clearError s).out6 = s.out6 := rfl
@[simp] theorem clearError_out7 (s : State) : (clearError s).out7 = s.out7 := rfl
@[simp] theorem clearError_act (s : State) : (clearError s).act = s.act := rfl
@[simp] theorem clearError_actVc (s : State) : (clearError s).actVc = s.actVc := rfl
@[simp] theorem clearError_msg (s : State) : (clearError s).msg = s.msg := rfl
@[simp] theorem clearError_msgCap (s : State) : (clearError s).msgCap = s.msgCap := rfl
@[simp] theorem clearError_resets (s : State) : (clearError s).resets = s.resets := rfl
@[simp] theorem clearError_draws (s : State) : (clearError s).draws = s.draws := rfl
@[simp] theorem clearError_lastRead (s : State) : (clearError s).lastRead = s.lastRead := rfl
@[simp] theorem clearError_inputs (s : State) : (clearError s).inputs = s.inputs := rfl
@[simp] theorem clearError_host (s : State) : (clearError s).host = s.host := rfl

/-! What `accept` leaves in each field. -/
@[simp] theorem accept_busy (a : Act) (vc : Bool) (s : State) : (accept a vc s).busy = true := rfl
@[simp] theorem accept_done (a : Act) (vc : Bool) (s : State) : (accept a vc s).done = false := rfl
@[simp] theorem accept_err (a : Act) (vc : Bool) (s : State) : (accept a vc s).err = s.err := rfl
@[simp] theorem accept_ecode (a : Act) (vc : Bool) (s : State) : (accept a vc s).ecode = s.ecode := rfl
@[simp] theorem accept_rcnt (a : Act) (vc : Bool) (s : State) : (accept a vc s).rcnt = s.rcnt := rfl
@[simp] theorem accept_v0 (a : Act) (vc : Bool) (s : State) : (accept a vc s).v0 = s.v0 := rfl
@[simp] theorem accept_v1 (a : Act) (vc : Bool) (s : State) : (accept a vc s).v1 = s.v1 := rfl
@[simp] theorem accept_k0 (a : Act) (vc : Bool) (s : State) : (accept a vc s).k0 = s.k0 := rfl
@[simp] theorem accept_k1 (a : Act) (vc : Bool) (s : State) : (accept a vc s).k1 = s.k1 := rfl
@[simp] theorem accept_k2 (a : Act) (vc : Bool) (s : State) : (accept a vc s).k2 = s.k2 := rfl
@[simp] theorem accept_k3 (a : Act) (vc : Bool) (s : State) : (accept a vc s).k3 = s.k3 := rfl
@[simp] theorem accept_sum (a : Act) (vc : Bool) (s : State) : (accept a vc s).sum = s.sum := rfl
@[simp] theorem accept_offset (a : Act) (vc : Bool) (s : State) : (accept a vc s).offset = s.offset := rfl
@[simp] theorem accept_msgLen (a : Act) (vc : Bool) (s : State) : (accept a vc s).msgLen = s.msgLen := rfl
@[simp] theorem accept_vcount (a : Act) (vc : Bool) (s : State) : (accept a vc s).vcount = s.vcount := rfl
@[simp] theorem accept_outLen (a : Act) (vc : Bool) (s : State) : (accept a vc s).outLen = s.outLen := rfl
@[simp] theorem accept_cw (a : Act) (vc : Bool) (s : State) : (accept a vc s).cw = s.cw := rfl
@[simp] theorem accept_cb0 (a : Act) (vc : Bool) (s : State) : (accept a vc s).cb0 = s.cb0 := rfl
@[simp] theorem accept_cb1 (a : Act) (vc : Bool) (s : State) : (accept a vc s).cb1 = s.cb1 := rfl
@[simp] theorem accept_cb2 (a : Act) (vc : Bool) (s : State) : (accept a vc s).cb2 = s.cb2 := rfl
@[simp] theorem accept_cb3 (a : Act) (vc : Bool) (s : State) : (accept a vc s).cb3 = s.cb3 := rfl
@[simp] theorem accept_out0 (a : Act) (vc : Bool) (s : State) : (accept a vc s).out0 = s.out0 := rfl
@[simp] theorem accept_out1 (a : Act) (vc : Bool) (s : State) : (accept a vc s).out1 = s.out1 := rfl
@[simp] theorem accept_out2 (a : Act) (vc : Bool) (s : State) : (accept a vc s).out2 = s.out2 := rfl
@[simp] theorem accept_out3 (a : Act) (vc : Bool) (s : State) : (accept a vc s).out3 = s.out3 := rfl
@[simp] theorem accept_out4 (a : Act) (vc : Bool) (s : State) : (accept a vc s).out4 = s.out4 := rfl
@[simp] theorem accept_out5 (a : Act) (vc : Bool) (s : State) : (accept a vc s).out5 = s.out5 := rfl
@[simp] theorem accept_out6 (a : Act) (vc : Bool) (s : State) : (accept a vc s).out6 = s.out6 := rfl
@[simp] theorem accept_out7 (a : Act) (vc : Bool) (s : State) : (accept a vc s).out7 = s.out7 := rfl
@[simp] theorem accept_act (a : Act) (vc : Bool) (s : State) : (accept a vc s).act = a := rfl
@[simp] theorem accept_actVc (a : Act) (vc : Bool) (s : State) : (accept a vc s).actVc = vc := rfl
@[simp] theorem accept_msg (a : Act) (vc : Bool) (s : State) : (accept a vc s).msg = s.msg := rfl
@[simp] theorem accept_msgCap (a : Act) (vc : Bool) (s : State) : (accept a vc s).msgCap = s.msgCap := rfl
@[simp] theorem accept_resets (a : Act) (vc : Bool) (s : State) : (accept a vc s).resets = s.resets := rfl
@[simp] theorem accept_draws (a : Act) (vc : Bool) (s : State) : (accept a vc s).draws = s.draws := rfl
@[simp] theorem accept_lastRead (a : Act) (vc : Bool) (s : State) : (accept a vc s).lastRead = s.lastRead := rfl
@[simp] theorem accept_inputs (a : Act) (vc : Bool) (s : State) : (accept a vc s).inputs = s.inputs := rfl
@[simp] theorem accept_host (a : Act) (vc : Bool) (s : State) : (accept a vc s).host = s.host := rfl

/-! What `startRounds` leaves in each field. -/
@[simp] theorem startRounds_busy (x : Word) (s : State) : (startRounds x s).busy = s.busy := rfl
@[simp] theorem startRounds_done (x : Word) (s : State) : (startRounds x s).done = s.done := rfl
@[simp] theorem startRounds_err (x : Word) (s : State) : (startRounds x s).err = s.err := rfl
@[simp] theorem startRounds_ecode (x : Word) (s : State) : (startRounds x s).ecode = s.ecode := rfl
@[simp] theorem startRounds_rcnt (x : Word) (s : State) : (startRounds x s).rcnt = 0 := rfl
@[simp] theorem startRounds_v0 (x : Word) (s : State) : (startRounds x s).v0 = s.v0 := rfl
@[simp] theorem startRounds_v1 (x : Word) (s : State) : (startRounds x s).v1 = s.v1 := rfl
@[simp] theorem startRounds_k0 (x : Word) (s : State) : (startRounds x s).k0 = s.k0 := rfl
@[simp] theorem startRounds_k1 (x : Word) (s : State) : (startRounds x s).k1 = s.k1 := rfl
@[simp] theorem startRounds_k2 (x : Word) (s : State) : (startRounds x s).k2 = s.k2 := rfl
@[simp] theorem startRounds_k3 (x : Word) (s : State) : (startRounds x s).k3 = s.k3 := rfl
@[simp] theorem startRounds_sum (x : Word) (s : State) : (startRounds x s).sum = x := rfl
@[simp] theorem startRounds_offset (x : Word) (s : State) : (startRounds x s).offset = s.offset := rfl
@[simp] theorem startRounds_msgLen (x : Word) (s : State) : (startRounds x s).msgLen = s.msgLen := rfl
@[simp] theorem startRounds_vcount (x : Word) (s : State) : (startRounds x s).vcount = s.vcount := rfl
@[simp] theorem startRounds_outLen (x : Word) (s : State) : (startRounds x s).outLen = s.outLen := rfl
@[simp] theorem startRounds_cw (x : Word) (s : State) : (startRounds x s).cw = s.cw := rfl
@[simp] theorem startRounds_cb0 (x : Word) (s : State) : (startRounds x s).cb0 = s.cb0 := rfl
@[simp] theorem startRounds_cb1 (x : Word) (s : State) : (startRounds x s).cb1 = s.cb1 := rfl
@[simp] theorem startRounds_cb2 (x : Word) (s : State) : (startRounds x s).cb2 = s.cb2 := rfl
@[simp] theorem startRounds_cb3 (x : Word) (s : State) : (startRounds x s).cb3 = s.cb3 := rfl
@[simp] theorem startRounds_out0 (x : Word) (s : State) : (startRounds x s).out0 = s.out0 := rfl
@[simp] theorem startRounds_out1 (x : Word) (s : State) : (startRounds x s).out1 = s.out1 := rfl
@[simp] theorem startRounds_out2 (x : Word) (s : State) : (startRounds x s).out2 = s.out2 := rfl
@[simp] theorem startRounds_out3 (x : Word) (s : State) : (startRounds x s).out3 = s.out3 := rfl
@[simp] theorem startRounds_out4 (x : Word) (s : State) : (startRounds x s).out4 = s.out4 := rfl
@[simp] theorem startRounds_out5 (x : Word) (s : State) : (startRounds x s).out5 = s.out5 := rfl
@[simp] theorem startRounds_out6 (x : Word) (s : State) : (startRounds x s).out6 = s.out6 := rfl
@[simp] theorem startRounds_out7 (x : Word) (s : State) : (startRounds x s).out7 = s.out7 := rfl
@[simp] theorem startRounds_act (x : Word) (s : State) : (startRounds x s).act = s.act := rfl
@[simp] theorem startRounds_actVc (x : Word) (s : State) : (startRounds x s).actVc = s.actVc := rfl
@[simp] theorem startRounds_msg (x : Word) (s : State) : (startRounds x s).msg = s.msg := rfl
@[simp] theorem startRounds_msgCap (x : Word) (s : State) : (startRounds x s).msgCap = s.msgCap := rfl
@[simp] theorem startRounds_resets (x : Word) (s : State) : (startRounds x s).resets = s.resets := rfl
@[simp] theorem startRounds_draws (x : Word) (s : State) : (startRounds x s).draws = s.draws := rfl
@[simp] theorem startRounds_lastRead (x : Word) (s : State) : (startRounds x s).lastRead = s.lastRead := rfl
@[simp] theorem startRounds_inputs (x : Word) (s : State) : (startRounds x s).inputs = s.inputs := rfl
@[simp] theorem startRounds_host (x : Word) (s : State) : (startRounds x s).host = s.host := rfl

/-! What `complete` leaves in each field. -/
@[simp] theorem complete_busy (s : State) : (complete s).busy = false := rfl
@[simp] theorem complete_done (s : State) : (complete s).done = true := rfl
@[simp] theorem complete_err (s : State) : (complete s).err = s.err := rfl
@[simp] theorem complete_ecode (s : State) : (complete s).ecode = s.ecode := rfl
@[simp] theorem complete_rcnt (s : State) : (complete s).rcnt = s.rcnt := rfl
@[simp] theorem complete_v0 (s : State) : (complete s).v0 = s.v0 := rfl
@[simp] theorem complete_v1 (s : State) : (complete s).v1 = s.v1 := rfl
@[simp] theorem complete_k0 (s : State) : (complete s).k0 = s.k0 := rfl
@[simp] theorem complete_k1 (s : State) : (complete s).k1 = s.k1 := rfl
@[simp] theorem complete_k2 (s : State) : (complete s).k2 = s.k2 := rfl
@[simp] theorem complete_k3 (s : State) : (complete s).k3 = s.k3 := rfl
@[simp] theorem complete_sum (s : State) : (complete s).sum = s.sum := rfl
@[simp] theorem complete_offset (s : State) : (complete s).offset = s.offset := rfl
@[simp] theorem complete_msgLen (s : State) : (complete s).msgLen = s.msgLen := rfl
@[simp] theorem complete_vcount (s : State) : (complete s).vcount = s.vcount := rfl
@[simp] theorem complete_outLen (s : State) : (complete s).outLen = s.outLen := rfl
@[simp] theorem complete_cw (s : State) : (complete s).cw = s.cw := rfl
@[simp] theorem complete_cb0 (s : State) : (complete s).cb0 = s.cb0 := rfl
@[simp] theorem complete_cb1 (s : State) : (complete s).cb1 = s.cb1 := rfl
@[simp] theorem complete_cb2 (s : State) : (complete s).cb2 = s.cb2 := rfl
@[simp] theorem complete_cb3 (s : State) : (complete s).cb3 = s.cb3 := rfl
@[simp] theorem complete_out0 (s : State) : (complete s).out0 = s.out0 := rfl
@[simp] theorem complete_out1 (s : State) : (complete s).out1 = s.out1 := rfl
@[simp] theorem complete_out2 (s : State) : (complete s).out2 = s.out2 := rfl
@[simp] theorem complete_out3 (s : State) : (complete s).out3 = s.out3 := rfl
@[simp] theorem complete_out4 (s : State) : (complete s).out4 = s.out4 := rfl
@[simp] theorem complete_out5 (s : State) : (complete s).out5 = s.out5 := rfl
@[simp] theorem complete_out6 (s : State) : (complete s).out6 = s.out6 := rfl
@[simp] theorem complete_out7 (s : State) : (complete s).out7 = s.out7 := rfl
@[simp] theorem complete_act (s : State) : (complete s).act = .none := rfl
@[simp] theorem complete_actVc (s : State) : (complete s).actVc = false := rfl
@[simp] theorem complete_msg (s : State) : (complete s).msg = s.msg := rfl
@[simp] theorem complete_msgCap (s : State) : (complete s).msgCap = s.msgCap := rfl
@[simp] theorem complete_resets (s : State) : (complete s).resets = s.resets := rfl
@[simp] theorem complete_draws (s : State) : (complete s).draws = s.draws := rfl
@[simp] theorem complete_lastRead (s : State) : (complete s).lastRead = s.lastRead := rfl
@[simp] theorem complete_inputs (s : State) : (complete s).inputs = s.inputs := rfl
@[simp] theorem complete_host (s : State) : (complete s).host = s.host := rfl

/-! What `writeMsg` leaves in each field. -/
@[simp] theorem writeMsg_busy (s : State) (i : Nat) (b : Byte) : (s.writeMsg i b).busy = s.busy := rfl
@[simp] theorem writeMsg_done (s : State) (i : Nat) (b : Byte) : (s.writeMsg i b).done = s.done := rfl
@[simp] theorem writeMsg_err (s : State) (i : Nat) (b : Byte) : (s.writeMsg i b).err = s.err := rfl
@[simp] theorem writeMsg_ecode (s : State) (i : Nat) (b : Byte) : (s.writeMsg i b).ecode = s.ecode := rfl
@[simp] theorem writeMsg_rcnt (s : State) (i : Nat) (b : Byte) : (s.writeMsg i b).rcnt = s.rcnt := rfl
@[simp] theorem writeMsg_v0 (s : State) (i : Nat) (b : Byte) : (s.writeMsg i b).v0 = s.v0 := rfl
@[simp] theorem writeMsg_v1 (s : State) (i : Nat) (b : Byte) : (s.writeMsg i b).v1 = s.v1 := rfl
@[simp] theorem writeMsg_k0 (s : State) (i : Nat) (b : Byte) : (s.writeMsg i b).k0 = s.k0 := rfl
@[simp] theorem writeMsg_k1 (s : State) (i : Nat) (b : Byte) : (s.writeMsg i b).k1 = s.k1 := rfl
@[simp] theorem writeMsg_k2 (s : State) (i : Nat) (b : Byte) : (s.writeMsg i b).k2 = s.k2 := rfl
@[simp] theorem writeMsg_k3 (s : State) (i : Nat) (b : Byte) : (s.writeMsg i b).k3 = s.k3 := rfl
@[simp] theorem writeMsg_sum (s : State) (i : Nat) (b : Byte) : (s.writeMsg i b).sum = s.sum := rfl
@[simp] theorem writeMsg_offset (s : State) (i : Nat) (b : Byte) : (s.writeMsg i b).offset = s.offset := rfl
@[simp] theorem writeMsg_msgLen (s : State) (i : Nat) (b : Byte) : (s.writeMsg i b).msgLen = s.msgLen := rfl
@[simp] theorem writeMsg_vcount (s : State) (i : Nat) (b : Byte) : (s.writeMsg i b).vcount = s.vcount := rfl
@[simp] theorem writeMsg_outLen (s : State) (i : Nat) (b : Byte) : (s.writeMsg i b).outLen = s.outLen := rfl
@[simp] theorem writeMsg_cw (s : State) (i : Nat) (b : Byte) : (s.writeMsg i b).cw = s.cw := rfl
@[simp] theorem writeMsg_cb0 (s : State) (i : Nat) (b : Byte) : (s.writeMsg i b).cb0 = s.cb0 := rfl
@[simp] theorem writeMsg_cb1 (s : State) (i : Nat) (b : Byte) : (s.writeMsg i b).cb1 = s.cb1 := rfl
@[simp] theorem writeMsg_cb2 (s : State) (i : Nat) (b : Byte) : (s.writeMsg i b).cb2 = s.cb2 := rfl
@[simp] theorem writeMsg_cb3 (s : State) (i : Nat) (b : Byte) : (s.writeMsg i b).cb3 = s.cb3 := rfl
@[simp] theorem writeMsg_out0 (s : State) (i : Nat) (b : Byte) : (s.writeMsg i b).out0 = s.out0 := rfl
@[simp] theorem writeMsg_out1 (s : State) (i : Nat) (b : Byte) : (s.writeMsg i b).out1 = s.out1 := rfl
@[simp] theorem writeMsg_out2 (s : State) (i : Nat) (b : Byte) : (s.writeMsg i b).out2 = s.out2 := rfl
@[simp] theorem writeMsg_out3 (s : State) (i : Nat) (b : Byte) : (s.writeMsg i b).out3 = s.out3 := rfl
@[simp] theorem writeMsg_out4 (s : State) (i : Nat) (b : Byte) : (s.writeMsg i b).out4 = s.out4 := rfl
@[simp] theorem writeMsg_out5 (s : State) (i : Nat) (b : Byte) : (s.writeMsg i b).out5 = s.out5 := rfl
@[simp] theorem writeMsg_out6 (s : State) (i : Nat) (b : Byte) : (s.writeMsg i b).out6 = s.out6 := rfl
@[simp] theorem writeMsg_out7 (s : State) (i : Nat) (b : Byte) : (s.writeMsg i b).out7 = s.out7 := rfl
@[simp] theorem writeMsg_act (s : State) (i : Nat) (b : Byte) : (s.writeMsg i b).act = s.act := rfl
@[simp] theorem writeMsg_actVc (s : State) (i : Nat) (b : Byte) : (s.writeMsg i b).actVc = s.actVc := rfl
@[simp] theorem writeMsg_msg (s : State) (i : Nat) (b : Byte) : (s.writeMsg i b).msg = putCell s.msg i b := rfl
@[simp] theorem writeMsg_msgCap (s : State) (i : Nat) (b : Byte) : (s.writeMsg i b).msgCap = s.msgCap := rfl
@[simp] theorem writeMsg_resets (s : State) (i : Nat) (b : Byte) : (s.writeMsg i b).resets = s.resets := rfl
@[simp] theorem writeMsg_draws (s : State) (i : Nat) (b : Byte) : (s.writeMsg i b).draws = s.draws := rfl
@[simp] theorem writeMsg_lastRead (s : State) (i : Nat) (b : Byte) : (s.writeMsg i b).lastRead = s.lastRead := rfl
@[simp] theorem writeMsg_inputs (s : State) (i : Nat) (b : Byte) : (s.writeMsg i b).inputs = s.inputs := rfl
@[simp] theorem writeMsg_host (s : State) (i : Nat) (b : Byte) : (s.writeMsg i b).host = s.host := rfl

/-! What `atHostLine` leaves in each field. -/
@[simp] theorem atHostLine_busy (s : State) (k : Nat) : (s.atHostLine k).busy = s.busy := rfl
@[simp] theorem atHostLine_done (s : State) (k : Nat) : (s.atHostLine k).done = s.done := rfl
@[simp] theorem atHostLine_err (s : State) (k : Nat) : (s.atHostLine k).err = s.err := rfl
@[simp] theorem atHostLine_ecode (s : State) (k : Nat) : (s.atHostLine k).ecode = s.ecode := rfl
@[simp] theorem atHostLine_rcnt (s : State) (k : Nat) : (s.atHostLine k).rcnt = s.rcnt := rfl
@[simp] theorem atHostLine_v0 (s : State) (k : Nat) : (s.atHostLine k).v0 = s.v0 := rfl
@[simp] theorem atHostLine_v1 (s : State) (k : Nat) : (s.atHostLine k).v1 = s.v1 := rfl
@[simp] theorem atHostLine_k0 (s : State) (k : Nat) : (s.atHostLine k).k0 = s.k0 := rfl
@[simp] theorem atHostLine_k1 (s : State) (k : Nat) : (s.atHostLine k).k1 = s.k1 := rfl
@[simp] theorem atHostLine_k2 (s : State) (k : Nat) : (s.atHostLine k).k2 = s.k2 := rfl
@[simp] theorem atHostLine_k3 (s : State) (k : Nat) : (s.atHostLine k).k3 = s.k3 := rfl
@[simp] theorem atHostLine_sum (s : State) (k : Nat) : (s.atHostLine k).sum = s.sum := rfl
@[simp] theorem atHostLine_offset (s : State) (k : Nat) : (s.atHostLine k).offset = s.offset := rfl
@[simp] theorem atHostLine_msgLen (s : State) (k : Nat) : (s.atHostLine k).msgLen = s.msgLen := rfl
@[simp] theorem atHostLine_vcount (s : State) (k : Nat) : (s.atHostLine k).vcount = s.vcount := rfl
@[simp] theorem atHostLine_outLen (s : State) (k : Nat) : (s.atHostLine k).outLen = s.outLen := rfl
@[simp] theorem atHostLine_cw (s : State) (k : Nat) : (s.atHostLine k).cw = s.cw := rfl
@[simp] theorem atHostLine_cb0 (s : State) (k : Nat) : (s.atHostLine k).cb0 = s.cb0 := rfl
@[simp] theorem atHostLine_cb1 (s : State) (k : Nat) : (s.atHostLine k).cb1 = s.cb1 := rfl
@[simp] theorem atHostLine_cb2 (s : State) (k : Nat) : (s.atHostLine k).cb2 = s.cb2 := rfl
@[simp] theorem atHostLine_cb3 (s : State) (k : Nat) : (s.atHostLine k).cb3 = s.cb3 := rfl
@[simp] theorem atHostLine_out0 (s : State) (k : Nat) : (s.atHostLine k).out0 = s.out0 := rfl
@[simp] theorem atHostLine_out1 (s : State) (k : Nat) : (s.atHostLine k).out1 = s.out1 := rfl
@[simp] theorem atHostLine_out2 (s : State) (k : Nat) : (s.atHostLine k).out2 = s.out2 := rfl
@[simp] theorem atHostLine_out3 (s : State) (k : Nat) : (s.atHostLine k).out3 = s.out3 := rfl
@[simp] theorem atHostLine_out4 (s : State) (k : Nat) : (s.atHostLine k).out4 = s.out4 := rfl
@[simp] theorem atHostLine_out5 (s : State) (k : Nat) : (s.atHostLine k).out5 = s.out5 := rfl
@[simp] theorem atHostLine_out6 (s : State) (k : Nat) : (s.atHostLine k).out6 = s.out6 := rfl
@[simp] theorem atHostLine_out7 (s : State) (k : Nat) : (s.atHostLine k).out7 = s.out7 := rfl
@[simp] theorem atHostLine_act (s : State) (k : Nat) : (s.atHostLine k).act = s.act := rfl
@[simp] theorem atHostLine_actVc (s : State) (k : Nat) : (s.atHostLine k).actVc = s.actVc := rfl
@[simp] theorem atHostLine_msg (s : State) (k : Nat) : (s.atHostLine k).msg = s.msg := rfl
@[simp] theorem atHostLine_msgCap (s : State) (k : Nat) : (s.atHostLine k).msgCap = s.msgCap := rfl
@[simp] theorem atHostLine_resets (s : State) (k : Nat) : (s.atHostLine k).resets = s.resets := rfl
@[simp] theorem atHostLine_draws (s : State) (k : Nat) : (s.atHostLine k).draws = s.draws := rfl
@[simp] theorem atHostLine_lastRead (s : State) (k : Nat) : (s.atHostLine k).lastRead = s.lastRead := rfl
@[simp] theorem atHostLine_inputs (s : State) (k : Nat) : (s.atHostLine k).inputs = s.inputs := rfl
@[simp] theorem atHostLine_host (s : State) (k : Nat) : (s.atHostLine k).host = { s.host with line := k } := rfl

/-! What `setHostVar` leaves in each field. -/
@[simp] theorem setHostVar_busy (s : State) (v : Nat) (w : Word) : (s.setHostVar v w).busy = s.busy := rfl
@[simp] theorem setHostVar_done (s : State) (v : Nat) (w : Word) : (s.setHostVar v w).done = s.done := rfl
@[simp] theorem setHostVar_err (s : State) (v : Nat) (w : Word) : (s.setHostVar v w).err = s.err := rfl
@[simp] theorem setHostVar_ecode (s : State) (v : Nat) (w : Word) : (s.setHostVar v w).ecode = s.ecode := rfl
@[simp] theorem setHostVar_rcnt (s : State) (v : Nat) (w : Word) : (s.setHostVar v w).rcnt = s.rcnt := rfl
@[simp] theorem setHostVar_v0 (s : State) (v : Nat) (w : Word) : (s.setHostVar v w).v0 = s.v0 := rfl
@[simp] theorem setHostVar_v1 (s : State) (v : Nat) (w : Word) : (s.setHostVar v w).v1 = s.v1 := rfl
@[simp] theorem setHostVar_k0 (s : State) (v : Nat) (w : Word) : (s.setHostVar v w).k0 = s.k0 := rfl
@[simp] theorem setHostVar_k1 (s : State) (v : Nat) (w : Word) : (s.setHostVar v w).k1 = s.k1 := rfl
@[simp] theorem setHostVar_k2 (s : State) (v : Nat) (w : Word) : (s.setHostVar v w).k2 = s.k2 := rfl
@[simp] theorem setHostVar_k3 (s : State) (v : Nat) (w : Word) : (s.setHostVar v w).k3 = s.k3 := rfl
@[simp] theorem setHostVar_sum (s : State) (v : Nat) (w : Word) : (s.setHostVar v w).sum = s.sum := rfl
@[simp] theorem setHostVar_offset (s : State) (v : Nat) (w : Word) : (s.setHostVar v w).offset = s.offset := rfl
@[simp] theorem setHostVar_msgLen (s : State) (v : Nat) (w : Word) : (s.setHostVar v w).msgLen = s.msgLen := rfl
@[simp] theorem setHostVar_vcount (s : State) (v : Nat) (w : Word) : (s.setHostVar v w).vcount = s.vcount := rfl
@[simp] theorem setHostVar_outLen (s : State) (v : Nat) (w : Word) : (s.setHostVar v w).outLen = s.outLen := rfl
@[simp] theorem setHostVar_cw (s : State) (v : Nat) (w : Word) : (s.setHostVar v w).cw = s.cw := rfl
@[simp] theorem setHostVar_cb0 (s : State) (v : Nat) (w : Word) : (s.setHostVar v w).cb0 = s.cb0 := rfl
@[simp] theorem setHostVar_cb1 (s : State) (v : Nat) (w : Word) : (s.setHostVar v w).cb1 = s.cb1 := rfl
@[simp] theorem setHostVar_cb2 (s : State) (v : Nat) (w : Word) : (s.setHostVar v w).cb2 = s.cb2 := rfl
@[simp] theorem setHostVar_cb3 (s : State) (v : Nat) (w : Word) : (s.setHostVar v w).cb3 = s.cb3 := rfl
@[simp] theorem setHostVar_out0 (s : State) (v : Nat) (w : Word) : (s.setHostVar v w).out0 = s.out0 := rfl
@[simp] theorem setHostVar_out1 (s : State) (v : Nat) (w : Word) : (s.setHostVar v w).out1 = s.out1 := rfl
@[simp] theorem setHostVar_out2 (s : State) (v : Nat) (w : Word) : (s.setHostVar v w).out2 = s.out2 := rfl
@[simp] theorem setHostVar_out3 (s : State) (v : Nat) (w : Word) : (s.setHostVar v w).out3 = s.out3 := rfl
@[simp] theorem setHostVar_out4 (s : State) (v : Nat) (w : Word) : (s.setHostVar v w).out4 = s.out4 := rfl
@[simp] theorem setHostVar_out5 (s : State) (v : Nat) (w : Word) : (s.setHostVar v w).out5 = s.out5 := rfl
@[simp] theorem setHostVar_out6 (s : State) (v : Nat) (w : Word) : (s.setHostVar v w).out6 = s.out6 := rfl
@[simp] theorem setHostVar_out7 (s : State) (v : Nat) (w : Word) : (s.setHostVar v w).out7 = s.out7 := rfl
@[simp] theorem setHostVar_act (s : State) (v : Nat) (w : Word) : (s.setHostVar v w).act = s.act := rfl
@[simp] theorem setHostVar_actVc (s : State) (v : Nat) (w : Word) : (s.setHostVar v w).actVc = s.actVc := rfl
@[simp] theorem setHostVar_msg (s : State) (v : Nat) (w : Word) : (s.setHostVar v w).msg = s.msg := rfl
@[simp] theorem setHostVar_msgCap (s : State) (v : Nat) (w : Word) : (s.setHostVar v w).msgCap = s.msgCap := rfl
@[simp] theorem setHostVar_resets (s : State) (v : Nat) (w : Word) : (s.setHostVar v w).resets = s.resets := rfl
@[simp] theorem setHostVar_draws (s : State) (v : Nat) (w : Word) : (s.setHostVar v w).draws = s.draws := rfl
@[simp] theorem setHostVar_lastRead (s : State) (v : Nat) (w : Word) : (s.setHostVar v w).lastRead = s.lastRead := rfl
@[simp] theorem setHostVar_inputs (s : State) (v : Nat) (w : Word) : (s.setHostVar v w).inputs = s.inputs := rfl
@[simp] theorem setHostVar_host (s : State) (v : Nat) (w : Word) : (s.setHostVar v w).host = { s.host with vars := putCell s.host.vars v w } := rfl

end Sys2Proof.Machine
end

