-- ==== Sys2Proof/Laws/Memory.lean ====
section
/-! SUPPORT. The laws of the sorted lists behind MSG and the host's variables: a read after a write, the canonical form kept
by every write, and equal contents being equal lists. -/

namespace Sys2Proof.Machine

open Sys2Proof

variable {β : Type}

theorem lookupCell_putCell_same (m : List (Nat × β)) (i : Nat) (x : β) : lookupCell (putCell m i x) i = some x := by
  induction m with
  | nil => simp [putCell, lookupCell]
  | cons c rest ih =>
    unfold putCell
    split_ifs with h₁ h₂
    · simp [lookupCell]
    · simp [lookupCell]
    · have : c.1 ≠ i := fun h => h₂ h.symm
      simp [lookupCell, this, ih]

theorem lookupCell_putCell_other (m : List (Nat × β)) {i j : Nat} (x : β) (h : j ≠ i) :
    lookupCell (putCell m i x) j = lookupCell m j := by
  have h' : i ≠ j := fun e => h e.symm
  induction m with
  | nil => simp [putCell, lookupCell, h']
  | cons c rest ih =>
    unfold putCell
    split_ifs with h₁ h₂
    · simp [lookupCell, h']
    · subst h₂
      simp [lookupCell, h']
    · simp [lookupCell, ih]

/-- A key of the list after a write is the written one or an old one. -/
theorem mem_putCell {m : List (Nat × β)} {i : Nat} {x : β} {c : Nat × β} (h : c ∈ putCell m i x) :
    c = (i, x) ∨ c ∈ m := by
  induction m with
  | nil => simpa [putCell] using h
  | cons d rest ih =>
    unfold putCell at h
    split_ifs at h with h₁ h₂
    · simpa using h
    · rcases List.mem_cons.1 h with h | h
      · exact .inl h
      · exact .inr (List.mem_cons_of_mem _ h)
    · rcases List.mem_cons.1 h with h | h
      · exact .inr (h ▸ List.mem_cons_self)
      · exact (ih h).imp_right (List.mem_cons_of_mem _)

/-- Every write keeps the canonical form. -/
theorem putCell_rises {m : List (Nat × β)} (h : cellsRise m) (i : Nat) (x : β) : cellsRise (putCell m i x) := by
  induction m with
  | nil => simp [putCell, cellsRise]
  | cons c rest ih =>
    have hc := List.pairwise_cons.1 h
    unfold putCell
    split_ifs with h₁ h₂
    · refine List.pairwise_cons.2 ⟨fun d hd => ?_, h⟩
      rcases List.mem_cons.1 hd with rfl | hd
      · exact h₁
      · exact lt_trans h₁ (hc.1 d hd)
    · subst h₂
      exact List.pairwise_cons.2 ⟨hc.1, hc.2⟩
    · refine List.pairwise_cons.2 ⟨fun d hd => ?_, ih hc.2⟩
      rcases mem_putCell hd with rfl | hd
      · exact lt_of_le_of_ne (not_lt.1 h₁) (fun e => h₂ e.symm)
      · exact hc.1 d hd

theorem lookupCell_eq_none_of_lt {m : List (Nat × β)} {i : Nat} (h : ∀ c ∈ m, i < c.1) : lookupCell m i = none := by
  induction m with
  | nil => rfl
  | cons c rest ih =>
    have hc : c.1 ≠ i := (h c List.mem_cons_self).ne'
    simp [lookupCell, hc, ih fun d hd => h d (List.mem_cons_of_mem _ hd)]

/-- In canonical form the contents are the list: two lists that answer every lookup alike are equal. -/
theorem cells_ext {m n : List (Nat × β)} (hm : cellsRise m) (hn : cellsRise n)
    (h : ∀ i, lookupCell m i = lookupCell n i) : m = n := by
  induction m generalizing n with
  | nil =>
    cases n with
    | nil => rfl
    | cons d n => have := h d.1; simp [lookupCell] at this
  | cons c m ih =>
    cases n with
    | nil => have := h c.1; simp [lookupCell] at this
    | cons d n =>
      have hc := List.pairwise_cons.1 hm
      have hd := List.pairwise_cons.1 hn
      have key : c.1 = d.1 := by
        by_contra hne
        rcases lt_or_gt_of_ne hne with hlt | hgt
        · have h₁ := h c.1
          rw [lookupCell_eq_none_of_lt (m := d :: n)] at h₁
          · simp [lookupCell] at h₁
          · intro e he
            rcases List.mem_cons.1 he with rfl | he
            · exact hlt
            · exact lt_trans hlt (hd.1 e he)
        · have h₁ := h d.1
          rw [lookupCell_eq_none_of_lt (m := c :: m)] at h₁
          · simp [lookupCell] at h₁
          · intro e he
            rcases List.mem_cons.1 he with rfl | he
            · exact hgt
            · exact lt_trans hgt (hc.1 e he)
      have val : c.2 = d.2 := by
        have h₁ := h c.1
        simpa [lookupCell, key] using h₁
      have rest : m = n := ih hc.2 hd.2 fun i => by
        have h₁ := h i
        by_cases hi : c.1 = i
        · subst hi
          rw [lookupCell_eq_none_of_lt hc.1, lookupCell_eq_none_of_lt fun e he => key ▸ hd.1 e he]
        · have hi' : d.1 ≠ i := key ▸ hi
          simpa [lookupCell, hi, hi'] using h₁
      rw [rest, Prod.ext key val]

/-- A byte of MSG read after it is written is the byte written. -/
theorem readMsg_writeMsg_same (s : State) (i : Nat) (b : Byte) : (s.writeMsg i b).readMsg i = b := by
  simp [State.readMsg, lookupCell_putCell_same]

/-- A write of a byte of MSG leaves every other byte as it was. -/
theorem readMsg_writeMsg_other (s : State) {i j : Nat} (b : Byte) (h : j ≠ i) :
    (s.writeMsg i b).readMsg j = s.readMsg j := by
  simp [State.readMsg, lookupCell_putCell_other _ _ h]

/-- `MSG[i]` depends on what is written and on the number of the last reset alone. -/
theorem readMsg_congr {s t : State} (hm : t.msg = s.msg) (hr : t.resets = s.resets) (i : Nat) :
    t.readMsg i = s.readMsg i := by
  simp [State.readMsg, hm, hr]

/-- The one operation that writes MSG keeps its canonical form. -/
theorem writeMsg_wf {s : State} (h : Memory.wf s.msg) (i : Nat) (b : Byte) : Memory.wf (s.writeMsg i b).msg :=
  putCell_rises h i b

/-- Reset MSG is in canonical form: nothing is listed. -/
theorem reset_msg_wf : Memory.wf State.reset.msg := List.Pairwise.nil

end Sys2Proof.Machine
end

