-- ==== Sys2Proof/Laws/PerInstr.lean ====
section
/-! SUPPORT. Facts about each command as it is written: one family, one lemma per constructor. -/

namespace Sys2Proof.Laws.CommandWord

open Sys2Proof

/-- The command's fields pass the three checks of 30_encoding R91 to R93, its word is legal by R94, and reading the word
gives the fields back. -/
def Statement (i : Instr) : Prop :=
  i.wellFormed = true ∧ legal (encode i) = true ∧ fieldsOfWord (encode i) = i.fields

theorem enc : Statement .enc := by unfold Statement; decide
theorem dec : Statement .dec := by unfold Statement; decide
theorem pad : Statement .pad := by unfold Statement; decide
theorem render : Statement .render := by unfold Statement; decide
theorem renderVc : Statement .renderVc := by unfold Statement; decide
theorem pack : Statement .pack := by unfold Statement; decide
theorem unpack : Statement .unpack := by unfold Statement; decide

end Sys2Proof.Laws.CommandWord
end

