-- ==== Sys2Proof/Laws/Steps.lean ====
section
/-! SUPPORT. Each shared operation's one lemma: everything it can do, so that later proofs cite it and do not unfold it. -/

namespace Sys2Proof.Machine

open Sys2Proof

@[simp] theorem nextHostLine_eq (s : State) : s.nextHostLine = s.atHostLine (s.host.line + 1) := rfl

/-! ## Accepting and rejecting a command -/

/-- A legal word's write to CMD. -/
theorem cmdWrite_cases (w : Word) (s : State) :
    (s.busy = true ∧ cmdWrite w s = raiseError .busyCmd s) ∨
    (s.busy = false ∧ decode w = none ∧ cmdWrite w s = raiseError .illegalCmd s) ∨
    (∃ i, s.busy = false ∧ decode w = some i ∧ cmdWrite w s = acceptCommand i s) := by
  unfold cmdWrite
  cases hb : s.busy <;> cases hd : decode w <;> simp

/-- Acceptance writes ACT, ACTVC, BUSY, DONE, and for ENC and DEC SUM and RCNT. -/
theorem acceptCommand_frame (i : Instr) (s : State) :
    acceptCommand i s =
      { s with
        act := (acceptCommand i s).act, actVc := (acceptCommand i s).actVc, busy := true, done := false,
        sum := (acceptCommand i s).sum, rcnt := (acceptCommand i s).rcnt } := by
  cases i <;> rfl

/-! ## Host transactions -/

/-- A RegWrite is one of: an error, the clear, a command word, a stored operand. -/
theorem regWrite_cases (n : BitVec 6) (w : Word) (s : State) :
    (∃ c, regWrite n w s = raiseError c s) ∨
    (Reg.ofNumber n = some .status ∧ regWrite n w s = statusWrite w s) ∨
    (Reg.ofNumber n = some .cmd ∧ regWrite n w s = cmdWrite w s) ∨
    (∃ r, Reg.ofNumber n = some r ∧ s.busy = false ∧ r.readOnly = false ∧ regWrite n w s = storeReg r w s) := by
  unfold regWrite
  cases hr : Reg.ofNumber n with
  | none => exact .inl ⟨_, rfl⟩
  | some r =>
    simp only
    split_ifs with h₁ h₂ h₃ h₄
    · exact .inl ⟨_, rfl⟩
    · exact .inr (.inl ⟨by rw [h₂], rfl⟩)
    · exact .inr (.inr (.inl ⟨by rw [h₃], rfl⟩))
    · exact .inl ⟨_, rfl⟩
    · exact .inr (.inr (.inr ⟨r, rfl, by simpa using h₄, by simpa using h₁, rfl⟩))

/-- A RegRead changes only what the host read and the draw it used. -/
theorem regRead_frame (n : BitVec 6) (s : State) : ∃ l d, regRead n s = { s with lastRead := l, draws := d } := by
  unfold regRead
  cases Reg.ofNumber n with
  | none => exact ⟨_, s.draws, rfl⟩
  | some r =>
    simp only
    split_ifs
    · exact ⟨_, _, rfl⟩
    · exact ⟨_, s.draws, rfl⟩

/-- While BUSY = 1 a host transaction leaves only a recorded error and what the host read. -/
theorem transact_busy (x : Transaction) {s : State} (hb : s.busy = true) :
    ∃ e c l d, transact x s = { s with err := e, ecode := c, lastRead := l, draws := d } := by
  cases x with
  | regWrite n w =>
    rcases regWrite_cases n w s with ⟨c, h⟩ | ⟨-, h⟩ | ⟨-, h⟩ | ⟨r, -, h, -⟩
    · exact ⟨_, _, _, _, h⟩
    · unfold statusWrite at h
      split_ifs at h
      · exact ⟨_, _, _, _, h⟩
      · exact ⟨s.err, s.ecode, s.lastRead, s.draws, h⟩
    · rcases cmdWrite_cases w s with ⟨-, h'⟩ | ⟨h', -⟩ | ⟨i, h', -⟩
      · exact ⟨_, _, _, _, h.trans h'⟩
      · simp [hb] at h'
      · simp [hb] at h'
    · simp [hb] at h
  | regRead n =>
    obtain ⟨l, d, h⟩ := regRead_frame n s
    exact ⟨s.err, s.ecode, l, d, h⟩
  | msgWrite i b =>
    show ∃ e c l d, msgWrite i b s = _
    unfold msgWrite
    rw [if_pos hb]
    split_ifs <;> exact ⟨_, _, _, _, rfl⟩
  | msgRead i => exact ⟨s.err, s.ecode, _, s.draws, rfl⟩

/-! ## Engine steps -/

/-- What one engine step of a busy block does. -/
theorem engineStep_busy {s t : State} (hb : s.busy = true) (h : engineStep s = .next t) :
    (s.act = .enc ∧ t = encPart s) ∨ (s.act = .dec ∧ t = decPart s) ∨ (s.act = .pad ∧ t = complete (padPart s)) ∨
    (s.act = .render ∧ t = complete (renderPart s)) ∨ (s.act = .pack ∧ t = complete (packPart s)) ∨
    (s.act = .unpack ∧ t = complete (unpackPart s)) := by
  unfold engineStep at h
  rw [if_pos hb] at h
  cases ha : s.act <;> rw [ha] at h <;> simp at h <;> simp [h]

/-- With BUSY = 0 the engine has no step. -/
theorem engineStep_idle {s : State} (hb : s.busy = false) : engineStep s = .next s := by
  simp [engineStep, hb]

/-- Engine steps end to end. -/
theorem engineSteps_add (m n : Nat) {s t : State} (h : engineSteps m s = .next t) :
    engineSteps (m + n) s = engineSteps n t := by
  induction m generalizing s with
  | zero =>
    cases h
    simp
  | succ m ih =>
    rw [Nat.succ_add]
    simp only [engineSteps] at h ⊢
    cases hs : engineStep s with
    | next u => rw [hs] at h; exact ih h
    | fault f => rw [hs] at h; simp at h
    | refused r => rw [hs] at h; simp at h

theorem repeatPart_succ {α : Type} (f : α → α) (n : Nat) (s : α) :
    repeatPart f (n + 1) s = f (repeatPart f n s) := by
  induction n generalizing s with
  | zero => rfl
  | succ n ih => exact ih (f s)

/-- Rounds of ENC write V0, V1, SUM and RCNT. -/
theorem encRounds_frame (n : Nat) (s : State) :
    repeatPart encRound n s =
      { s with
        v0 := (repeatPart encRound n s).v0, v1 := (repeatPart encRound n s).v1,
        sum := s.sum + delta * BitVec.ofNat 32 n, rcnt := s.rcnt + BitVec.ofNat 6 n } := by
  induction n with
  | zero => simp [repeatPart]
  | succ n ih =>
    have h : (repeatPart encRound (n + 1) s) = encRound (repeatPart encRound n s) := repeatPart_succ _ _ _
    have hs : (repeatPart encRound n s).sum = s.sum + delta * BitVec.ofNat 32 n := by rw [ih]
    have hr : (repeatPart encRound n s).rcnt = s.rcnt + BitVec.ofNat 6 n := by rw [ih]
    have e₁ : s.sum + delta * BitVec.ofNat 32 (n + 1) = (encRound (repeatPart encRound n s)).sum := by
      simp only [encRound, hs, BitVec.ofNat_add, BitVec.mul_add]
      rw [BitVec.add_assoc]
      congr 2
    have e₂ : s.rcnt + BitVec.ofNat 6 (n + 1) = (encRound (repeatPart encRound n s)).rcnt := by
      simp only [encRound, hr, BitVec.ofNat_add, BitVec.add_assoc]
      rfl
    rw [h, e₁, e₂]
    conv_lhs => rw [encRound, ih]
    simp only [encRound]
    rw [ih]

/-- Rounds of DEC write V0, V1, SUM and RCNT. -/
theorem decRounds_frame (n : Nat) (s : State) :
    repeatPart decRound n s =
      { s with
        v0 := (repeatPart decRound n s).v0, v1 := (repeatPart decRound n s).v1,
        sum := s.sum - delta * BitVec.ofNat 32 n, rcnt := s.rcnt + BitVec.ofNat 6 n } := by
  induction n with
  | zero => simp [repeatPart]
  | succ n ih =>
    have h : (repeatPart decRound (n + 1) s) = decRound (repeatPart decRound n s) := repeatPart_succ _ _ _
    have hs : (repeatPart decRound n s).sum = s.sum - delta * BitVec.ofNat 32 n := by rw [ih]
    have hr : (repeatPart decRound n s).rcnt = s.rcnt + BitVec.ofNat 6 n := by rw [ih]
    have e₁ : s.sum - delta * BitVec.ofNat 32 (n + 1) = (decRound (repeatPart decRound n s)).sum := by
      simp only [decRound, hs, BitVec.ofNat_add, BitVec.mul_add]
      rw [BitVec.sub_sub]
      congr 2
    have e₂ : s.rcnt + BitVec.ofNat 6 (n + 1) = (decRound (repeatPart decRound n s)).rcnt := by
      simp only [decRound, hr, BitVec.ofNat_add, BitVec.add_assoc]
      rfl
    rw [h, e₁, e₂]
    conv_lhs => rw [decRound, ih]
    simp only [decRound]
    rw [ih]

/-- DEC's round undoes ENC's, but for the round count. -/
theorem decRound_encRound (s : State) :
    decRound (encRound s) = { s with rcnt := s.rcnt + 1 + 1 } := by
  simp only [decRound, encRound, BitVec.add_sub_cancel]

/-! ## The host's lines -/

/-- A branch goes to the label's line or to the next one. -/
theorem hostBranch_frame {taken : Bool} {l : Label} {s t : State} (h : hostBranch taken l s = .next t) :
    ∃ k, t = s.atHostLine k := by
  unfold hostBranch at h
  split_ifs at h
  · split at h
    · exact ⟨_, by simpa using h.symm⟩
    · simp at h
  · exact ⟨_, by simpa using h.symm⟩

/-- A host line performs its transaction, if it is one, and otherwise changes only the host. -/
theorem runLine_cases {x : Line} {s t : State} (h : runLine x s = .next t) :
    (∃ y, lineTransaction s x = some y ∧ t = { transact y s with host := t.host }) ∨
    (lineTransaction s x = none ∧ t = { s with host := t.host }) := by
  cases x with
  | wr n w => exact .inl ⟨_, rfl, by simp only [runLine, Host.Outcome.next.injEq] at h; subst h; rfl⟩
  | rd n v => exact .inl ⟨_, rfl, by simp only [runLine, Host.Outcome.next.injEq] at h; subst h; rfl⟩
  | wb i b => exact .inl ⟨_, rfl, by simp only [runLine, Host.Outcome.next.injEq] at h; subst h; rfl⟩
  | rb i v => exact .inl ⟨_, rfl, by simp only [runLine, Host.Outcome.next.injEq] at h; subst h; rfl⟩
  | label l => exact .inr ⟨rfl, by simp only [runLine, Host.Outcome.next.injEq] at h; subst h; rfl⟩
  | bnz v m l => exact .inr ⟨rfl, by obtain ⟨k, rfl⟩ := hostBranch_frame h; rfl⟩
  | bltu a b l => exact .inr ⟨rfl, by obtain ⟨k, rfl⟩ := hostBranch_frame h; rfl⟩
  | set v w => exact .inr ⟨rfl, by simp only [runLine, Host.Outcome.next.injEq] at h; subst h; rfl⟩
  | add v w => exact .inr ⟨rfl, by simp only [runLine, Host.Outcome.next.injEq] at h; subst h; rfl⟩
  | sub v a b => exact .inr ⟨rfl, by simp only [runLine, Host.Outcome.next.injEq] at h; subst h; rfl⟩
  | min v a b => exact .inr ⟨rfl, by simp only [runLine, Host.Outcome.next.injEq] at h; subst h; rfl⟩
  | comment => exact .inr ⟨rfl, by simp only [runLine, Host.Outcome.next.injEq] at h; subst h; rfl⟩

end Sys2Proof.Machine
end

