-- ==== Sys2Proof/Laws/Runs.lean ====
section
/-! SUPPORT. Steps and runs: everything one step can do, said once; one step of a run; and what the rounds of ENC and DEC
come to, in closed form and as engine steps. -/

namespace Sys2Proof.Machine

open Sys2Proof

/-! ## Facts of the parts -/

theorem Reg.number_of_ofNumber : ∀ (n : BitVec 6) (r : Reg), Reg.ofNumber n = some r → r.number = n := by
  decide

theorem acceptCommand_errors (i : Instr) (s : State) :
    (acceptCommand i s).err = s.err ∧ (acceptCommand i s).ecode = s.ecode := by
  cases i <;> exact ⟨rfl, rfl⟩

theorem acceptCommand_readMsg (i : Instr) (s : State) (a : Nat) : (acceptCommand i s).readMsg a = s.readMsg a := by
  cases i <;> rfl

theorem storeReg_errors (r : Reg) (w : Word) (s : State) :
    (storeReg r w s).err = s.err ∧ (storeReg r w s).ecode = s.ecode := by
  cases r <;> exact ⟨rfl, rfl⟩

theorem storeReg_readMsg (r : Reg) (w : Word) (s : State) (a : Nat) : (storeReg r w s).readMsg a = s.readMsg a := by
  cases r <;> rfl

/-- PAD's bytes depend on OFFSET, MSG_LEN and MSG alone. -/
theorem padByte_congr {s t : State} (ho : t.offset = s.offset) (hl : t.msgLen = s.msgLen) (hm : t.msg = s.msg)
    (hr : t.resets = s.resets) (j : Nat) : padByte t j = padByte s j := by
  simp [padByte, State.readMsg, *]

/-- A command's CMD word, written to an idle block. -/
theorem transact_cmd {w : Word} {i : Instr} {s : State} (hd : decode w = some i) (hb : s.busy = false) :
    transact (.regWrite 0x00 w) s = acceptCommand i s := by
  simp [transact, regWrite, Reg.ofNumber, Reg.readOnly, cmdWrite, hd, hb]

/-- A host variable just set, whatever line the host then goes to. -/
theorem hostVar_setHostVar (s : State) (v : Nat) (w : Word) (k : Nat) :
    ((s.setHostVar v w).atHostLine k).hostVar v = w := by
  simp [State.hostVar, State.setHostVar, State.atHostLine, lookupCell_putCell_same]

/-- The other host variables keep their values. -/
theorem hostVar_setHostVar_other (s : State) {u v : Nat} (w : Word) (k : Nat) (h : u ≠ v) :
    ((s.setHostVar v w).atHostLine k).hostVar u = s.hostVar u := by
  simp [State.hostVar, State.setHostVar, State.atHostLine, lookupCell_putCell_other _ _ h]

/-- A transaction leaves the host's program, line and variables to the host. -/
theorem transact_host (x : Transaction) (s : State) : (transact x s).host = s.host := by
  cases x with
  | regWrite n w =>
    simp only [transact]
    rcases regWrite_cases n w s with ⟨c, e⟩ | ⟨-, e⟩ | ⟨-, e⟩ | ⟨r, -, -, -, e⟩ <;> rw [e]
    · rfl
    · unfold statusWrite
      split_ifs <;> rfl
    · rcases cmdWrite_cases w s with ⟨-, e⟩ | ⟨-, -, e⟩ | ⟨i, -, -, e⟩ <;> rw [e]
      · rfl
      · rfl
      · rw [acceptCommand_frame]
    · cases r <;> rfl
  | regRead n =>
    obtain ⟨l, d, e⟩ := regRead_frame n s
    simp only [transact, e]
  | msgWrite i b =>
    simp only [transact, msgWrite]
    split_ifs <;> rfl
  | msgRead i => rfl

/-- Assembled source, taken apart at one of its lines. -/
theorem assemble_split (k j : Nat) (src : List Source) (x : Source) (h : src[j]? = some x) :
    assemble k src =
      assemble k (src.take j) ++ assemble (k + j) [x] ++ assemble (k + j + 1) (src.drop (j + 1)) := by
  induction src generalizing k j with
  | nil => simp at h
  | cons y rest ih =>
    cases j with
    | zero =>
      simp only [List.getElem?_cons_zero, Option.some.injEq] at h
      subst h
      cases y <;> simp [assemble]
    | succ j =>
      have e := ih (k + 1) j (by simpa using h)
      rw [show k + 1 + j = k + (j + 1) by omega] at e
      cases y <;> simp [assemble, e]

/-- The host's next transaction does not depend on the schedule. -/
theorem nextLineTransaction_inputs (s : State) (r : List Move) :
    nextLineTransaction { s with inputs := r } = nextLineTransaction s := by
  unfold nextLineTransaction
  congr 1

/-! ## One step -/

/-- The host's next line performs its transaction, if it is one, and otherwise changes only the host. -/
theorem hostLineStep_cases {s t : State} (h : hostLineStep s = .next t) :
    (∃ y, nextLineTransaction s = some y ∧ t = { transact y s with host := t.host }) ∨
    (nextLineTransaction s = none ∧ t = { s with host := t.host }) := by
  unfold hostLineStep at h
  unfold nextLineTransaction
  cases hx : s.host.prog[s.host.line]? with
  | none => rw [hx] at h; cases h; exact .inr ⟨rfl, rfl⟩
  | some x => rw [hx] at h; exact runLine_cases h
/-- Everything a step can do: a reset, a host transaction, a command run as one step, an engine step, or a line of the host
that is no transaction. -/
theorem step_cases {s t : State} (h : step s = .next t) :
    (s.inputs.head? = some .reset ∧ t = resetBlock { s with inputs := s.inputs.tail }) ∨
    (∃ y, nextTransaction s = some y ∧
      t = { transact y { s with inputs := s.inputs.tail } with host := t.host }) ∨
    (∃ w i, s.inputs.head? = some (.commandRun w) ∧ nextTransaction s = some (.regWrite 0 w) ∧ decode w = some i ∧
      exec i { s with inputs := s.inputs.tail } = .next t) ∨
    ((s.inputs = [] ∨ s.inputs.head? = some .engine) ∧ engineStep { s with inputs := s.inputs.tail } = .next t) ∨
    (nextTransaction s = none ∧ t = { s with inputs := s.inputs.tail, host := t.host }) := by
  unfold step at h
  split at h
  · rename_i hin
    have hs : { s with inputs := s.inputs.tail } = s := by
      have : s.inputs.tail = s.inputs := by rw [hin]; rfl
      rw [this]
    have ht : { s with inputs := s.inputs.tail, host := t.host } = { s with host := t.host } := by
      have : s.inputs.tail = s.inputs := by rw [hin]; rfl
      rw [this]
    rw [hs, ht]
    unfold unscheduled at h
    split_ifs at h with hb
    · exact .inr (.inr (.inr (.inl ⟨.inl hin, h⟩)))
    · have hn : nextTransaction s = nextLineTransaction s := by simp [nextTransaction, hin, hb]
      rcases hostLineStep_cases h with ⟨y, h₁, h₂⟩ | ⟨h₁, h₂⟩
      · exact .inr (.inl ⟨y, hn.trans h₁, h₂⟩)
      · exact .inr (.inr (.inr (.inr ⟨hn.trans h₁, h₂⟩)))
  · rename_i m rest hin
    have ht : s.inputs.tail = rest := by rw [hin]; rfl
    rw [ht]
    cases m <;> simp only [performMove, Host.Outcome.next.injEq] at h
    · subst h
      exact .inr (.inl ⟨_, by simp [nextTransaction, hin], rfl⟩)
    · have hn : nextTransaction s = nextLineTransaction s := by simp [nextTransaction, hin]
      rcases hostLineStep_cases h with ⟨y, h₁, h₂⟩ | ⟨h₁, h₂⟩ <;> rw [nextLineTransaction_inputs] at h₁
      · exact .inr (.inl ⟨y, hn.trans h₁, h₂⟩)
      · exact .inr (.inr (.inr (.inr ⟨hn.trans h₁, h₂⟩)))
    · rename_i w
      unfold commandRun at h
      split at h
      · rename_i i hd
        exact .inr (.inr (.inl ⟨w, i, by simp [hin], by simp [nextTransaction, hin], hd, h⟩))
      · cases h
        exact .inr (.inl ⟨.regWrite 0 w, by simp [nextTransaction, hin], rfl⟩)
    · exact .inr (.inr (.inr (.inl ⟨.inr (by simp [hin]), h⟩)))
    · exact .inl ⟨by simp [hin], h.symm⟩

/-- A line the host performs while BUSY = 1 leaves only a recorded error, what it read, and the host's own progress. -/
theorem hostLineStep_busy {s t : State} (hb : s.busy = true) (h : hostLineStep s = .next t) :
    SameButTraffic t s ∧ t.inputs = s.inputs := by
  rcases hostLineStep_cases h with ⟨y, -, e⟩ | ⟨-, e⟩
  · obtain ⟨_, _, _, _, e'⟩ := transact_busy y hb
    rw [e, e']
    exact ⟨rfl, rfl⟩
  · rw [e]
    exact ⟨rfl, rfl⟩

/-- A run of one step more. -/
theorem run_succ (n : Nat) {s t : State} (h : step s = .next t) :
    (Host.Core.run Sys2Proof.core (n + 1) s : Host.Outcome State Fault Refusal) = Host.Core.run Sys2Proof.core n t := by
  have e := Host.Core.run.eq_2 Sys2Proof.core s n
  rw [show Sys2Proof.core.step s = .next t from h] at e
  exact e

/-! ## Rounds -/

/-- Rounds of ENC are iterations of TeaEnc's loop (42_tea R164). -/
theorem encRounds_closed (n : Nat) (s : State) :
    ((repeatPart encRound n s).v0, (repeatPart encRound n s).v1, (repeatPart encRound n s).sum) =
      repeatPart (teaEncRound s.k0 s.k1 s.k2 s.k3) n (s.v0, s.v1, s.sum) := by
  induction n with
  | zero => rfl
  | succ n ih =>
    have hk : (repeatPart encRound n s).k0 = s.k0 ∧ (repeatPart encRound n s).k1 = s.k1 ∧
        (repeatPart encRound n s).k2 = s.k2 ∧ (repeatPart encRound n s).k3 = s.k3 := by
      rw [encRounds_frame]
      exact ⟨rfl, rfl, rfl, rfl⟩
    rw [repeatPart_succ, repeatPart_succ, ← ih]
    simp only [encRound, teaEncRound, hk]

/-- Rounds of DEC are iterations of TeaDec's loop (42_tea R165). -/
theorem decRounds_closed (n : Nat) (s : State) :
    ((repeatPart decRound n s).v0, (repeatPart decRound n s).v1, (repeatPart decRound n s).sum) =
      repeatPart (teaDecRound s.k0 s.k1 s.k2 s.k3) n (s.v0, s.v1, s.sum) := by
  induction n with
  | zero => rfl
  | succ n ih =>
    have hk : (repeatPart decRound n s).k0 = s.k0 ∧ (repeatPart decRound n s).k1 = s.k1 ∧
        (repeatPart decRound n s).k2 = s.k2 ∧ (repeatPart decRound n s).k3 = s.k3 := by
      rw [decRounds_frame]
      exact ⟨rfl, rfl, rfl, rfl⟩
    rw [repeatPart_succ, repeatPart_succ, ← ih]
    simp only [decRound, teaDecRound, hk]

theorem engineSteps_one (s : State) : engineSteps 1 s = engineStep s := by
  simp only [engineSteps]
  split <;> rename_i h <;> exact h.symm

/-- Before the 32nd round, engine steps of ENC are its rounds. -/
theorem engineSteps_enc (s : State) (hb : s.busy = true) (ha : s.act = .enc) (n : Nat) (hn : s.rcnt.toNat + n < 32) :
    engineSteps n s = .next (repeatPart encRound n s) := by
  induction n with
  | zero => rfl
  | succ n ih =>
    rw [engineSteps_add n 1 (ih (by omega)), engineSteps_one, repeatPart_succ]
    have hr : (repeatPart encRound n s).rcnt = s.rcnt + BitVec.ofNat 6 n := by rw [encRounds_frame]
    have h₁ : (repeatPart encRound n s).busy = true := by rw [encRounds_frame]; exact hb
    have h₂ : (repeatPart encRound n s).act = .enc := by rw [encRounds_frame]; exact ha
    have h₃ : (encRound (repeatPart encRound n s)).rcnt ≠ 32 := by
      show (repeatPart encRound n s).rcnt + 1 ≠ 32
      rw [hr]
      intro h
      have := congrArg BitVec.toNat h
      simp at this
      omega
    simp only [engineStep, h₁, h₂, if_true, encPart, completeAfterRounds, if_neg h₃]

/-- Before the 32nd round, engine steps of DEC are its rounds. -/
theorem engineSteps_dec (s : State) (hb : s.busy = true) (ha : s.act = .dec) (n : Nat) (hn : s.rcnt.toNat + n < 32) :
    engineSteps n s = .next (repeatPart decRound n s) := by
  induction n with
  | zero => rfl
  | succ n ih =>
    rw [engineSteps_add n 1 (ih (by omega)), engineSteps_one, repeatPart_succ]
    have hr : (repeatPart decRound n s).rcnt = s.rcnt + BitVec.ofNat 6 n := by rw [decRounds_frame]
    have h₁ : (repeatPart decRound n s).busy = true := by rw [decRounds_frame]; exact hb
    have h₂ : (repeatPart decRound n s).act = .dec := by rw [decRounds_frame]; exact ha
    have h₃ : (decRound (repeatPart decRound n s)).rcnt ≠ 32 := by
      show (repeatPart decRound n s).rcnt + 1 ≠ 32
      rw [hr]
      intro h
      have := congrArg BitVec.toNat h
      simp at this
      omega
    simp only [engineStep, h₁, h₂, if_true, decPart, completeAfterRounds, if_neg h₃]

end Sys2Proof.Machine
end

