-- ==== Sys2Proof/Tests/Slice0.lean ====
section
/-! SUPPORT. The model's own tests: ill-formed terms that each check refuses, command words written out bit by bit, one-step
tests whose expected results are those of spec/95_test_vectors.md, and for every statement with hypotheses a state and
operands that meet them all. -/

namespace Sys2Proof.Tests

open Sys2Proof Sys2Proof.Machine

/-! ## Helpers -/

/-- The next state of an outcome (reset's, where it is none). -/
def after (o : Host.Outcome State Fault Refusal) : State :=
  match o with
  | .next t => t
  | .fault _ => State.reset
  | .refused _ => State.reset

/-- The sixteen bytes "HOLA1234HOLA1HOL" (95 section 2.2). -/
def holaBytes : Memory :=
  [(0, 0x48), (1, 0x4F), (2, 0x4C), (3, 0x41), (4, 0x31), (5, 0x32), (6, 0x33), (7, 0x34)]
    ++ [(8, 0x48), (9, 0x4F), (10, 0x4C), (11, 0x41), (12, 0x31), (13, 0x48), (14, 0x4F), (15, 0x4C)]

/-- An idle block after a few host writes: P_DOC under K_DOC, MSG_CAP 16, 13 message bytes (95 sections 2.2, 2.3). -/
def demo : State :=
  { State.reset with
    v0 := 0x484F4C41, v1 := 0x31323334
    k0 := 0x12345678, k1 := 0x9ABCDEF0, k2 := 0xFEDCBA98, k3 := 0x76543210
    cw := 0x80000001, cb0 := 0x80, cb1 := 0x00, cb2 := 0x00, cb3 := 0x01
    msg := holaBytes, msgLen := 13, msgCap := 16 }

/-- The same block right after a command's acceptance. -/
def busyWith (i : Instr) : State := acceptCommand i demo

/-- The same block with ENC or DEC before its last round. -/
def lastRound (i : Instr) : State := { busyWith i with rcnt := 31 }

/-- The rendered bytes. -/
def outBytes (s : State) : List Byte := [s.out0, s.out1, s.out2, s.out3, s.out4, s.out5, s.out6, s.out7]

/-! ## Well-formedness: each check refuses an ill-formed term -/

theorem test_rsv_set_is_refused : CommandFields.wellFormed ⟨1, false, 1⟩ = false := by decide
theorem test_op_zero_is_refused : CommandFields.wellFormed ⟨0, false, 0⟩ = false := by decide
theorem test_op_seven_is_refused : CommandFields.wellFormed ⟨7, false, 0⟩ = false := by decide
theorem test_vc_with_enc_is_refused : CommandFields.wellFormed ⟨1, true, 0⟩ = false := by decide
theorem test_missing_label_is_refused : targetsDefined [.bnz 0 1 (.user 3)] = false := by decide
theorem test_label_twice_is_refused : labelsOnce [.label (.user 3), .comment, .label (.user 3)] = false := by decide
theorem test_bad_program_is_refused :
    programWellFormed [.bltu (.lit 0) (.lit 1) (.fresh 0)] = false ∧
    programWellFormed [.label (.user 3), .label (.user 3)] = false := by decide
theorem test_text_beyond_ascii_is_refused : (Pseudo.str 0 ['H', 'é']).wellFormed = false := by decide
theorem test_poll_loop_is_accepted : programWellFormed (assemble 0 [.pseudo (.wait 0), .pseudo (.wait 0)]) = true := by
  decide

/-! ## Decoding: words written out bit by bit, RSV 31:5, VC 4, OP 3:0 (30_encoding R90, R91) -/

theorem test_decode_enc_bits : decode 0b000000000000000000000000000_0_0001 = some .enc := by decide
theorem test_decode_dec_bits : decode 0b000000000000000000000000000_0_0010 = some .dec := by decide
theorem test_decode_pad_bits : decode 0b000000000000000000000000000_0_0011 = some .pad := by decide
theorem test_decode_render_bits : decode 0b000000000000000000000000000_0_0100 = some .render := by decide
theorem test_decode_renderVc_bits : decode 0b000000000000000000000000000_1_0100 = some .renderVc := by decide
theorem test_decode_pack_bits : decode 0b000000000000000000000000000_0_0101 = some .pack := by decide
theorem test_decode_unpack_bits : decode 0b000000000000000000000000000_0_0110 = some .unpack := by decide
theorem test_decode_bit5_rejected : decodeWord 0x00000024 = .error .reservedBits := by decide
theorem test_decode_bit31_rejected : decodeWord 0x80000001 = .error .reservedBits := by decide
theorem test_decode_zero_rejected : decodeWord 0x00000000 = .error .undefinedOp := by decide
theorem test_decode_seven_rejected : decodeWord 0x00000007 = .error .undefinedOp := by decide
theorem test_decode_fifteen_rejected : decodeWord 0x0000001F = .error .undefinedOp := by decide
theorem test_decode_enc_vc_rejected : decodeWord 0x00000011 = .error .vcWithoutRender := by decide
theorem test_decodeTableWord_rows :
    [1, 2, 3, 4, 20, 5, 6, 0].map (decodeTableWord 32) =
      [some .enc, some .dec, some .pad, some .render, some .renderVc, some .pack, some .unpack, none] := by decide

/-- A command word in the schedule runs as the first instruction after reset. -/
theorem test_first_step_after_reset :
    [1, 2, 3, 4, 20, 5, 6].all (fun w => (after (step (State.reset.withFetchWord 32 w))).done) = true := by decide

/-! ## Commands (95 sections 2.1 to 2.4) -/

/-- Section 2.3, row DOC. -/
theorem test_enc_doc :
    ((after (exec .enc demo)).v0, (after (exec .enc demo)).v1) = (0xBE91739F, 0xC5B30D30) := by
  set_option maxRecDepth 4000 in decide

/-- Section 2.3, row DOC, the DEC column. -/
theorem test_dec_doc :
    ((after (exec .dec demo)).v0, (after (exec .dec demo)).v1) = (0xE382584E, 0xFD97CB23) := by
  set_option maxRecDepth 4000 in decide

/-- Section 2.3, row SEQ, the DEC column. -/
theorem test_dec_seq :
    teaDec 0x01234567 0x89ABCDEF 0x00112233 0x44556677 0x8899AABB 0xCCDDEEFF = (0xBF467633, 0x9D07A595) := by
  set_option maxRecDepth 4000 in decide

/-- Section 2.3: the mixing function where all three additions wrap. -/
theorem test_mix_wraps : mix 0xFFFFFFFF 0x9E3779B9 0xFFFFFFFF 0xFFFFFFFF = 0x663779A9 := by decide

/-- Section 2.3: round 1 of the trace of ENC. -/
theorem test_enc_first_round :
    let t := after (engineStep (busyWith .enc))
    (t.sum, t.v0, t.v1, t.rcnt, t.busy) = (0x9E3779B9, 0xBEC7A21D, 0xFD15DBD2, 1, true) := by decide

/-- Section 2.2, row 3: 5 valid bytes, 3 zero, though bytes 13 to 15 are written. -/
theorem test_pad_short_block :
    let t := after (exec .pad { demo with offset := 8 })
    (t.v0, t.v1) = (0x484F4C41, 0x31000000) := by decide

/-- Section 2.2, row 8: OFFSET + j does not wrap. -/
theorem test_pad_no_wrap :
    let t := after (exec .pad { demo with offset := 0xFFFFFFFF })
    (t.v0, t.v1) = (0, 0) := by decide

/-- Section 2.4, row 1. -/
theorem test_render_ignores_vcount :
    let t := after (exec .render { demo with vcount := 3 })
    (t.outLen, outBytes t) = (8, [0x48, 0x4F, 0x4C, 0x41, 0x31, 0x32, 0x33, 0x34]) := by decide

/-- Section 2.4, row 2. -/
theorem test_renderVc_truncates :
    let t := after (exec .renderVc { demo with vcount := 5 })
    (t.outLen, outBytes t) = (5, [0x48, 0x4F, 0x4C, 0x41, 0x31, 0, 0, 0]) := by decide

/-- Section 2.4, row 8: the count is signed. -/
theorem test_renderVc_negative :
    let t := after (exec .renderVc { demo with vcount := 0x80000000 })
    (t.outLen, outBytes t) = (0, [0, 0, 0, 0, 0, 0, 0, 0]) := by decide

/-- Section 2.1, row 1. -/
theorem test_pack_hola :
    (after (exec .pack { demo with cb0 := 0x48, cb1 := 0x4F, cb2 := 0x4C, cb3 := 0x41 })).cw = 0x484F4C41 := by decide

/-- Section 2.1, row 4. -/
theorem test_pack_ends : (after (exec .pack { demo with cw := 0 })).cw = 0x80000001 := by decide

/-- Section 2.1, row 6. -/
theorem test_unpack_digits :
    let t := after (exec .unpack { demo with cw := 0x31323334 })
    (t.cb0, t.cb1, t.cb2, t.cb3) = (0x31, 0x32, 0x33, 0x34) := by decide

/-- Section 2.1, row 7. -/
theorem test_unpack_ends :
    let t := after (exec .unpack { demo with cb0 := 0, cb3 := 0 })
    (t.cb0, t.cb1, t.cb2, t.cb3) = (0x80, 0, 0, 0x01) := by decide

/-! ## Transactions (95 section 2.5) -/

/-- Rows 1, 5, 8, 9, 10: STATUS after one bad write to an idle block. -/
theorem test_status_after_bad_writes :
    [.regWrite 0x00 0, .regWrite 0x00 0x24, .regWrite 0x20 5, .regWrite 0x08 5, .msgWrite 16 0x41].map
      (fun x => statusWord (transact x demo)) = [0x14, 0x14, 0x44, 0x44, 0x44] := by decide

/-- Rows 11 to 14, before completion: STATUS bits 7:0 after a bad write while ENC is active. -/
theorem test_status_after_busy_writes :
    [.regWrite 0x00 1, .regWrite 0x00 0, .regWrite 0x04 1, .regWrite 0x08 1].map
      (fun x => statusWord (transact x (busyWith .enc))) = [0x25, 0x25, 0x35, 0x45] := by decide

/-- Rows 15 and 16: clearing the error needs bit 2. -/
theorem test_status_clear :
    statusWord (transact (.regWrite 0x01 4) (raiseError .badAddr demo)) = 0 ∧
    statusWord (transact (.regWrite 0x01 0xFFFFFFFB) (raiseError .badAddr demo)) = 0x44 := by decide

/-- Row 17: reads of CMD, a reserved number and a byte past the end. -/
theorem test_reads_of_nothing :
    [.regRead 0x00, .regRead 0x20, .msgRead 100].map (fun x => (transact x demo).lastRead) =
      [.word 0, .word 0, .byte 0] := by decide

/-- Section 2.2, row 12: MSG_LEN is clamped to MSG_CAP. -/
theorem test_msgLen_clamped : (transact (.regWrite 0x0A 100) demo).msgLen = 16 := by decide

/-- Section 2.1, row 5: a codec byte register stores bits 7:0. -/
theorem test_cb_stores_a_byte : (transact (.regWrite 0x0E 0x148) demo).cb0 = 0x48 := by decide

/-- 70_reset R250: reset in the middle of a command abandons it. -/
theorem test_reset_while_busy :
    let t := after (step { busyWith .enc with inputs := [.reset] })
    (statusWord t, t.act, t.sum, t.msgLen, t.msgCap, t.resets) = (0, .none, 0, 0, 16, 1) := by decide

/-- 30_encoding R104, R105: one line of a host program, a register read into a variable. -/
theorem test_host_line_reads :
    let s := { demo with host := ⟨[.rd 0x02 7], 0, []⟩ }
    ((after (step s)).hostVar 7, (after (step s)).host.line) = (0x484F4C41, 1) := by decide

/-! ## The statements' hypotheses can be met

One theorem per statement with hypotheses, the witness named or given; `demo` is idle, `busyWith i` busy, both sound. -/

theorem test_demo_is_sound : demo.Inv := by constructor <;> decide

theorem test_busy_is_sound : ∀ i : Instr, (busyWith i).Inv := by
  intro i
  cases i <;> constructor <;> decide

/-- DEC one round from its end. -/
def decLast : State := { lastRound .dec with sum := 0x9E3779B9 }

/-- ENC one round from its end. -/
def encLast : State := { lastRound .enc with sum := 0x28B7BD67 }

theorem test_lastRounds_are_sound : decLast.Inv ∧ encLast.Inv := by
  constructor <;> constructor <;> decide

/-- A sound state with a next transaction or move at the head of its schedule. -/
theorem test_inputs_keep_soundness (m : List Move) : State.Inv { demo with inputs := m } :=
  let h := test_demo_is_sound
  ⟨h.1, h.2, h.3, h.4, h.5, h.6, h.7, h.8, h.9, h.10, h.11, h.12, h.13, h.14, h.15⟩

theorem test_meets_IllegalWordsAreRejected :
    demo.busy = false ∧ [0x00000000, 0x00000007, 0x0000000F, 0x00000011, 0x00000024, 0x80000001].all
      (fun w => !legal w) = true := by decide

theorem test_meets_StepRunsDecodedCommand :
    [(1, Instr.enc), (2, .dec), (3, .pad), (4, .render), (0x14, .renderVc), (5, .pack), (6, .unpack)].all
      (fun p => decide ((demo.withFetchWord 32 p.1).inputs = [.commandRun (BitVec.ofNat 32 p.1)] ∧
        decode (BitVec.ofNat 32 p.1) = some p.2)) = true ∧
    (let s := { busyWith .enc with inputs := [.commandRun 0] };
      s.inputs = .commandRun 0 :: [] ∧ s.busy = true) ∧
    ((demo.withFetchWord 32 0x24).inputs = .commandRun 0x24 :: [] ∧ (demo.withFetchWord 32 0x24).busy = false ∧
      legal 0x24 = false) := by decide

theorem test_meets_StepPerformsScheduledMove :
    ({ demo with inputs := [.host (.regRead 2)] } : State).inputs = .host (.regRead 2) :: [] ∧
    ({ demo with inputs := [.engine] } : State).inputs = .engine :: [] ∧
    (let s := { demo with inputs := [.hostLine], host := ⟨[.rd 0x02 7], 0, []⟩ };
      s.inputs = .hostLine :: [] ∧ s.host.prog[s.host.line]? = some (.rd 0x02 7)) ∧
    (let s := { demo with inputs := [.hostLine] };
      s.inputs = .hostLine :: [] ∧ s.host.prog[s.host.line]? = none) ∧
    ((busyWith .enc).inputs = [] ∧ (busyWith .enc).busy = true) ∧
    (let s := { demo with host := ⟨[.rd 0x02 7], 0, []⟩ };
      s.inputs = [] ∧ s.busy = false ∧ s.host.prog[s.host.line]? = some (.rd 0x02 7)) ∧
    (demo.inputs = [] ∧ demo.busy = false ∧ demo.host.prog[demo.host.line]? = none) := by decide

theorem test_meets_ResetSetsEveryRegister :
    ({ busyWith .enc with inputs := [.reset] } : State).inputs = .reset :: [] := by decide

theorem test_meets_ResetDrawsAreFresh :
    ({ demo with inputs := [.reset, .engine] } : State).inputs = .reset :: [.engine] := by decide

theorem test_meets_StepKeepsSoundness :
    demo.Inv ∧ (∃ t, step demo = .next t) ∧ (busyWith .pad).Inv ∧ (∃ t, step (busyWith .pad) = .next t) ∧
    encLast.Inv ∧ (∃ t, step encLast = .next t) :=
  ⟨test_demo_is_sound, ⟨_, rfl⟩, test_busy_is_sound .pad, ⟨_, rfl⟩, test_lastRounds_are_sound.2, ⟨_, rfl⟩⟩

theorem test_meets_SoundStatesNeverStop : demo.Inv ∧ (busyWith .render).Inv :=
  ⟨test_demo_is_sound, test_busy_is_sound _⟩

theorem test_meets_NoCommandHasErrorOutcome : demo.busy = false := by decide

theorem test_meets_EncComputesTeaEnc : demo.busy = false := by decide

theorem test_meets_DecComputesTeaDec : demo.busy = false := by decide

/-- A round that is not the last one, and the last one. -/
theorem test_meets_EncAcceptanceAndRounds :
    demo.busy = false ∧ (busyWith .pad).busy = true ∧
    ((busyWith .enc).busy = true ∧ (busyWith .enc).act = .enc ∧ (after (engineStep (busyWith .enc))).rcnt ≠ 32) ∧
    (encLast.busy = true ∧ encLast.act = .enc ∧ (after (engineStep encLast)).rcnt = 32) := by decide

theorem test_meets_DecAcceptanceAndRounds :
    demo.busy = false ∧ (busyWith .pad).busy = true ∧
    ((busyWith .dec).busy = true ∧ (busyWith .dec).act = .dec ∧ (after (engineStep (busyWith .dec))).rcnt ≠ 32) ∧
    (decLast.busy = true ∧ decLast.act = .dec ∧ (after (engineStep decLast)).rcnt = 32) := by decide

/-- The first and the last round. -/
theorem test_meets_SumSchedule : demo.busy = false ∧ (1 ≤ 1 ∧ 1 ≤ 32) ∧ (1 ≤ 32 ∧ 32 ≤ 32) := by decide

theorem test_meets_RoundTripRestoresBlock : demo.busy = false := by decide

/-- Two blocks that differ in SUM and RCNT. -/
theorem test_meets_CipherDependsOnBlockAndKeyAlone :
    let u := { demo with sum := 5, rcnt := 7 }
    demo.busy = false ∧ u.busy = false ∧ demo.v0 = u.v0 ∧ demo.v1 = u.v1 ∧ demo.k0 = u.k0 ∧ demo.k1 = u.k1 ∧
      demo.k2 = u.k2 ∧ demo.k3 = u.k3 ∧ (demo.sum ≠ u.sum ∧ demo.rcnt ≠ u.rcnt) := by decide

/-- From an idle and from a busy block. -/
theorem test_meets_CipherCommandsFrame :
    (∃ t, exec .enc demo = .next t) ∧ (∃ t, exec .dec demo = .next t) ∧ (∃ t, exec .enc (busyWith .pad) = .next t) ∧
    (∃ t, exec .dec (busyWith .pad) = .next t) ∧ demo.busy = false ∧ (busyWith .pad).busy = true :=
  ⟨⟨_, rfl⟩, ⟨_, rfl⟩, ⟨_, rfl⟩, ⟨_, rfl⟩, rfl, rfl⟩

theorem test_meets_PackWritesCw :
    demo.busy = false ∧ (busyWith .enc).busy = true ∧ Reg.cb3 ∈ [Reg.cb0, .cb1, .cb2, .cb3] := by decide

theorem test_meets_UnpackWritesCb : demo.busy = false ∧ (busyWith .enc).busy = true := by decide

theorem test_meets_PackAndUnpackUndoEachOther : demo.busy = false := by decide

theorem test_meets_CodecCommandsFrame :
    (∃ t, exec .pack demo = .next t) ∧ (∃ t, exec .unpack demo = .next t) ∧ (∃ t, exec .pack (busyWith .pad) = .next t) ∧
    (∃ t, exec .unpack (busyWith .pad) = .next t) ∧ demo.busy = false ∧ (busyWith .pad).busy = true :=
  ⟨⟨_, rfl⟩, ⟨_, rfl⟩, ⟨_, rfl⟩, ⟨_, rfl⟩, rfl, rfl⟩

/-- The bytes of the statement are those its second hypothesis defines. -/
theorem test_meets_PadFormsZeroPaddedBlock :
    demo.busy = false ∧ ∃ byte : Nat → Byte, ∀ j, byte j =
      if demo.offset.toNat + j < demo.msgLen.toNat then demo.readMsg (demo.offset.toNat + j) else 0x00 :=
  ⟨rfl, _, fun _ => rfl⟩

/-- Offset at the end, the greatest offset, the last full block, and a busy block. -/
theorem test_meets_PadCornerCases :
    (let s := { demo with offset := 13 };
      s.busy = false ∧ s.msgLen.toNat ≤ s.offset.toNat) ∧
    (let s := { demo with offset := 5 };
      s.busy = false ∧ s.offset.toNat + 8 ≤ s.msgLen.toNat) ∧
    (busyWith .enc).busy = true ∧
    (let s := { demo with offset := 0xFFFFFFFF };
      s.Inv ∧ s.busy = false ∧ s.offset = 0xFFFFFFFF) := by
  refine ⟨by decide, by decide, by decide, ?_, by decide, by decide⟩
  constructor <;> decide

/-- Two blocks whose MSG differs outside the bytes PAD reads. -/
theorem test_meets_PadDependsOnlyOnItsBytes :
    let u := { demo with msg := putCell demo.msg 13 0xFF }
    demo.busy = false ∧ u.busy = false ∧ demo.offset = u.offset ∧ demo.msgLen = u.msgLen ∧
      (∀ a, demo.offset.toNat ≤ a → a < demo.offset.toNat + 8 → a < demo.msgLen.toNat → demo.readMsg a = u.readMsg a) ∧
      demo.readMsg 13 ≠ u.readMsg 13 := by
  refine ⟨rfl, rfl, rfl, rfl, fun a _ h _ => ?_, by decide⟩
  have h₈ : a < 8 := by simpa [demo, State.reset, State.resetNumber] using h
  revert a
  decide

theorem test_meets_PadFrame :
    (∃ t, exec .pad demo = .next t) ∧ (∃ t, exec .pad (busyWith .enc) = .next t) ∧ demo.busy = false ∧
    (busyWith .enc).busy = true :=
  ⟨⟨_, rfl⟩, ⟨_, rfl⟩, rfl, rfl⟩

/-- Both commands, at a count inside the range and at counts past each end. -/
theorem test_meets_RenderWritesOut :
    demo.busy = false ∧
    [(Instr.render, 5, 8), (.renderVc, 5, 5), (.renderVc, 9, 8), (.renderVc, 0xFFFFFFFF, 0)].all
      (fun p : Instr × Word × Nat => decide ((p.1 = .render ∨ p.1 = .renderVc) ∧
        p.2.2 = (if p.1 = .render then 8 else (max 0 (min p.2.1.toInt 8)).toNat))) = true := by decide

/-- Each clause at the ends of its range: 0, 8, 0x7FFFFFFF, 0x80000000, 0xFFFFFFFF. -/
theorem test_meets_RenderCountCornerCases :
    demo.busy = false ∧ ({ demo with vcount := 0 } : State).vcount = 0 ∧
    [(8 : Word), 0x7FFFFFFF].all (fun w => decide (8 ≤ w.toNat ∧ w.toNat < 0x80000000)) = true ∧
    [(0x80000000 : Word), 0xFFFFFFFF].all (fun w => decide (0x80000000 ≤ w.toNat)) = true ∧
    (busyWith .enc).busy = true := by decide

theorem test_meets_RenderCommandsFrame :
    (∃ t, exec .render demo = .next t) ∧ (∃ t, exec .renderVc demo = .next t) ∧
    (∃ t, exec .render (busyWith .pad) = .next t) ∧ (∃ t, exec .renderVc (busyWith .pad) = .next t) ∧
    demo.busy = false ∧ (busyWith .pad).busy = true :=
  ⟨⟨_, rfl⟩, ⟨_, rfl⟩, ⟨_, rfl⟩, ⟨_, rfl⟩, rfl, rfl⟩

/-- A full block and the last, short one. -/
theorem test_meets_RenderInvertsPad :
    demo.busy = false ∧
    (demo.offset.toNat < demo.msgLen.toNat ∧ 8 = min 8 (demo.msgLen.toNat - demo.offset.toNat)) ∧
    (let s := { demo with offset := 12 };
      s.offset.toNat < s.msgLen.toNat ∧ 1 = min 8 (s.msgLen.toNat - s.offset.toNat)) := by decide

theorem test_meets_CmdWriteDecision :
    (busyWith .enc).busy = true ∧ demo.busy = false ∧ legal 0x00000000 = false ∧ legal 0x00000014 = true := by decide

theorem test_meets_AcceptanceEffects : demo.busy = false := by decide

/-- The last step of a long command, the only step of a short one, and a step after which the block is still busy. -/
theorem test_meets_EngineStepWritesOnlyDestinationSet :
    demo.busy = false ∧
    (encLast.busy = true ∧ (∃ t, engineStep encLast = .next t ∧ t.busy = false) ∧ inDestSet encLast.act .k0 = false) ∧
    ((busyWith .dec).busy = true ∧ (∃ t, engineStep (busyWith .dec) = .next t ∧ t.busy = true)) ∧
    ((busyWith .pack).busy = true ∧ (∃ t, engineStep (busyWith .pack) = .next t ∧ t.busy = false) ∧
      (busyWith .pack).act ≠ .enc ∧ (busyWith .pack).act ≠ .dec) :=
  ⟨rfl, ⟨rfl, ⟨_, rfl, rfl⟩, rfl⟩, ⟨rfl, _, rfl, rfl⟩, rfl, ⟨_, rfl, rfl⟩, by decide, by decide⟩

theorem test_meets_AtomicFormEqualsEngineSteps :
    demo.busy = false ∧ 31 < partCount .enc ∧ 0 < partCount .pad := by decide

/-- Right after acceptance, and one step from completion. -/
theorem test_meets_AcceptedCommandCompletes :
    ((busyWith .enc).Inv ∧ (busyWith .enc).busy = true ∧ (busyWith .enc).inputs = [] ∧ 31 < remainingParts (busyWith .enc)) ∧
    (decLast.Inv ∧ decLast.busy = true ∧ decLast.inputs = [] ∧ 0 < remainingParts decLast) :=
  ⟨⟨test_busy_is_sound _, by decide, by decide, by decide⟩, test_lastRounds_are_sound.1, by decide, by decide, by decide⟩

theorem test_meets_HostTrafficCommutesWithEngine :
    (busyWith .enc).busy = true ∧ ∃ u, engineStep (busyWith .enc) = .next u := ⟨rfl, _, rfl⟩

/-- A long command with its 31 earlier steps after a rejected write, a whole command and a host line; and PAD with a read, and
no host line, before its one step. -/
theorem test_meets_EveryInterleavingCompletesAlike :
    (let ms := Move.host (.regWrite 0x04 1) :: .commandRun 1 :: .hostLine :: List.replicate 31 .engine;
      let s := { busyWith .enc with inputs := ms ++ .engine :: [] };
      s.Inv ∧ s.busy = true ∧ s.inputs = ms ++ .engine :: [] ∧ (∀ m ∈ ms, m.isTraffic = true) ∧
        ms.count .engine + 1 = remainingParts s) ∧
    (let ms := [Move.host (.regRead 0x02)];
      let s := { busyWith .pad with inputs := ms ++ .engine :: [.hostLine] };
      s.Inv ∧ s.busy = true ∧ s.inputs = ms ++ .engine :: [.hostLine] ∧ (∀ m ∈ ms, m.isTraffic = true) ∧
        ms.count .engine + 1 = remainingParts s ∧ .hostLine ∉ ms) := by
  refine ⟨⟨?_, by decide, rfl, by decide, by decide⟩, ?_, by decide, rfl, by decide, by decide, by decide⟩ <;>
    constructor <;> decide

theorem test_meets_OnlyAcceptanceAndCompletionChangeBusy :
    (let s := { demo with inputs := [.host (.regWrite 0x00 1)] };
      s.busy = false ∧ ∃ t, step s = .next t ∧ t.busy = true) ∧
    (encLast.busy = true ∧ ∃ t, step encLast = .next t ∧ t.busy = false) ∧
    ((busyWith .enc).Inv ∧ ∃ t, step (busyWith .enc) = .next t ∧ t.busy = true) ∧
    (demo.busy = false ∧ legal 0x00000014 = true) ∧
    (encLast.Inv ∧ encLast.busy = true ∧ remainingParts encLast = 1) :=
  ⟨⟨rfl, _, rfl, rfl⟩, ⟨rfl, _, rfl, rfl⟩, ⟨test_busy_is_sound _, _, rfl, rfl⟩, ⟨rfl, by decide⟩,
    test_lastRounds_are_sound.2, by decide, by decide⟩

theorem test_meets_OnlyAcceptanceAndCompletionChangeDone :
    (let s := { demo with done := true, inputs := [.host (.regWrite 0x00 1)] };
      s.done = true ∧ ∃ t, step s = .next t ∧ t.done = false) ∧
    (encLast.done = false ∧ ∃ t, step encLast = .next t ∧ t.done = true) ∧
    ((demo.withFetchWord 32 3).done = false ∧ ∃ t, step (demo.withFetchWord 32 3) = .next t ∧ t.done = true) ∧
    errorCause demo (.regWrite 0x00 0) = some .illegalCmd ∧
    ((busyWith .enc).Inv ∧ ∃ t, step (busyWith .enc) = .next t ∧ t.busy = true) ∧
    (encLast.busy = true ∧ ∃ t, engineStep encLast = .next t ∧ t.busy = false) ∧
    (demo.busy = false ∧ legal 0x00000014 = true) :=
  ⟨⟨rfl, _, rfl, rfl⟩, ⟨rfl, _, rfl, rfl⟩, ⟨rfl, _, rfl, rfl⟩, by decide, ⟨test_busy_is_sound _, _, rfl, rfl⟩,
    ⟨rfl, _, rfl, rfl⟩, rfl, by decide⟩

/-- Each range at its ends, and no number in the ranges of two clauses: an erroneous number, STATUS, CMD or an operand. -/
theorem test_meets_RegWriteFirstMatchingCase :
    [(0x08 : BitVec 6), 0x0C, 0x12, 0x19, 0x1A, 0x3F].all
      (fun n => decide (0x1A ≤ n.toNat ∨ n = 0x08 ∨ n = 0x0C ∨ (0x12 ≤ n.toNat ∧ n.toNat ≤ 0x19))) = true ∧
    [(0x02 : BitVec 6), 0x07, 0x09, 0x0B, 0x0D, 0x11].all
      (fun n => decide ((0x02 ≤ n.toNat ∧ n.toNat ≤ 0x07) ∨ (0x09 ≤ n.toNat ∧ n.toNat ≤ 0x0B) ∨
        (0x0D ≤ n.toNat ∧ n.toNat ≤ 0x11))) = true ∧
    (busyWith .enc).busy = true ∧ demo.busy = false ∧
    (∀ n : BitVec 6,
      ¬((0x1A ≤ n.toNat ∨ n = 0x08 ∨ n = 0x0C ∨ (0x12 ≤ n.toNat ∧ n.toNat ≤ 0x19)) ∧
        (n = 0x00 ∨ n = 0x01 ∨ (0x02 ≤ n.toNat ∧ n.toNat ≤ 0x07) ∨ (0x09 ≤ n.toNat ∧ n.toNat ≤ 0x0B) ∨
          (0x0D ≤ n.toNat ∧ n.toNat ≤ 0x11)))) := by decide

/-- A length below MSG_CAP, at it, and above it. -/
theorem test_meets_MsgLenIsClamped :
    demo.Inv ∧ demo.busy = false ∧ (15 < demo.msgCap ∧ demo.msgCap = 16 ∧ demo.msgCap < 17) ∧
    demo.msgLen.toNat ≤ demo.offset.toNat + 13 :=
  ⟨test_demo_is_sound, by decide, by decide, by decide⟩

theorem test_meets_RegReadReturnsRegister :
    demo.busy = false ∧ [(0x00 : BitVec 6), 0x1A, 0x3F].all (fun n => decide (n = 0x00 ∨ 0x1A ≤ n.toNat)) = true ∧
    (Reg.ofNumber 0x04 = some .k0 ∧ inDestSet (busyWith .enc).act .k0 = false) ∧ 7 < 8 := by decide

/-- Each destination set at the ends of its range. -/
theorem test_meets_BusyReadReturnsAnyValue :
    [Instr.enc, .dec, .pad, .pack, .unpack, .renderVc].all (fun i => (busyWith i).busy) = true ∧
    ((busyWith .enc).act = .enc ∧ (busyWith .dec).act = .dec) ∧ (busyWith .pad).act = .pad ∧
    (busyWith .pack).act = .pack ∧
    ((busyWith .unpack).act = .unpack ∧ 0x0E ≤ (0x0E : BitVec 6).toNat ∧ (0x11 : BitVec 6).toNat ≤ 0x11) ∧
    ((busyWith .renderVc).act = .render ∧ 0x12 ≤ (0x12 : BitVec 6).toNat ∧ (0x19 : BitVec 6).toNat ≤ 0x19) := by decide

theorem test_meets_StatusWordLayout : 14 ≤ 14 ∧ 14 ≤ 31 := by decide

theorem test_meets_RegisterMapIsInjective :
    Reg.ofNumber 0x00 = some .cmd ∧ Reg.ofNumber 0x19 = some .out7 ∧ Reg.ofNumber 0x1A = none := by decide

/-- The last index, and the first past it. -/
theorem test_meets_MsgWriteFirstMatchingCase :
    demo.msgCap ≤ (16 : Word).toNat ∧ (15 : Word).toNat < demo.msgCap ∧ demo.busy = false ∧
    ((15 : Word).toNat < (busyWith .pad).msgCap ∧ (busyWith .pad).busy = true) ∧ 0 ≠ (15 : Word).toNat := by decide

theorem test_meets_MsgReadReturnsStoredByte :
    (15 : Word).toNat < demo.msgCap ∧ demo.msgCap ≤ (16 : Word).toNat := by decide

/-- One transaction for each cause, those with two causes, and one that records nothing over an earlier error. -/
theorem test_meets_ErrorCausesPriorityAndPrecision :
    errorCause demo (.regWrite 0x00 0) = some .illegalCmd ∧
    errorCause (busyWith .enc) (.regWrite 0x00 0) = some .busyCmd ∧
    errorCause (busyWith .enc) (.regWrite 0x11 0) = some .busyWrite ∧
    errorCause (busyWith .enc) (.regWrite 0x12 0) = some .badAddr ∧
    errorCause (busyWith .enc) (.msgWrite 15 0) = some .busyWrite ∧
    errorCause (busyWith .enc) (.msgWrite 16 0) = some .badAddr ∧
    (errorCause (raiseError .badAddr demo) (.regWrite 0x00 1) = none ∧
      (transact (.regWrite 0x00 1) (raiseError .badAddr demo)).err = true) := by decide

theorem test_meets_ErrorIsStickyUntilCleared :
    (4 : Word).getLsbD 2 = true ∧ (0xFFFFFFFB : Word).getLsbD 2 = false ∧
    (let s := { raiseError .badAddr (busyWith .enc) with inputs := [.host (.regWrite 0x01 4)] };
      s.err = true ∧ ∃ t, step s = .next t ∧ t.err = false) :=
  ⟨by decide, by decide, rfl, _, rfl, rfl⟩

theorem test_meets_BusyFreezesOperands :
    (busyWith .enc).busy = true ∧ (∃ t, step (busyWith .enc) = .next t) ∧ nextIsReset (busyWith .enc) = false ∧
    Reg.k0 ≠ .status ∧ inDestSet (busyWith .enc).act .k0 = false :=
  ⟨rfl, ⟨_, rfl⟩, by decide, by decide, by decide⟩

theorem test_meets_KeyChangesOnlyByHostWrite :
    (∃ t, step demo = .next t) ∧ nextIsReset demo = false ∧ nextTransaction demo = none ∧
    ((busyWith .enc).busy = true ∧ (∃ t, step (busyWith .enc) = .next t) ∧ nextIsReset (busyWith .enc) = false) ∧
    demo.busy = false :=
  ⟨⟨_, rfl⟩, by decide, by decide, ⟨rfl, ⟨_, rfl⟩, by decide⟩, rfl⟩

theorem test_meets_MsgChangesOnlyByHostWrite :
    ((∃ t, step (demo.withFetchWord 32 3) = .next t) ∧ nextIsReset (demo.withFetchWord 32 3) = false ∧
      nextTransaction (demo.withFetchWord 32 3) = some (.regWrite 0x00 3)) ∧
    (demo.Inv ∧ demo.msgCap ≤ demo.offset.toNat + 16) :=
  ⟨⟨⟨_, rfl⟩, by decide, by decide⟩, test_demo_is_sound, by decide⟩

/-- A block whose host has a program with a loop. -/
def looping : State := { demo with host := ⟨[.label (.user 1), .rd 0x01 0, .bnz 0 1 (.user 1)], 2, [(0, 3)]⟩ }

theorem test_meets_HostLinesDoTheirTransactions :
    (lineTransaction looping (.wr 0x02 (.lit 5)) = some (.regWrite 0x02 5) ∧
      ∃ t, runLine (.wr 0x02 (.lit 5)) looping = .next t) ∧
    (lineTransaction looping (.bnz 0 1 (.user 1)) = none ∧ ∃ t, runLine (.bnz 0 1 (.user 1)) looping = .next t) ∧
    (Line.target .comment = none ∧ Line.target (.set 1 (.lit 5)) = none ∧ Line.sets (.set 1 (.lit 5)) ≠ some 0) ∧
    findLabel (.user 1) looping.host.prog 0 = some 0 ∧ findLabel (.user 2) looping.host.prog 0 = none :=
  ⟨⟨rfl, _, rfl⟩, ⟨rfl, _, rfl⟩, ⟨rfl, rfl, by decide⟩, rfl, rfl⟩

/-- Source with two WAITs and a label of its own. -/
def twoWaits : List Source := [.line (.label (.user 0)), .pseudo (.wait 0), .pseudo (.cmd .enc), .pseudo (.wait 1)]

theorem test_meets_PseudoInstructionsExpand :
    ((∀ n, Source.line (.label (.fresh n)) ∉ twoWaits) ∧ twoWaits[1]? = some (.pseudo (.wait 0)) ∧
      twoWaits[3]? = some (.pseudo (.wait 1))) ∧
    (Pseudo.str 0 ['H', 'O', 'L', 'A']).wellFormed = true :=
  ⟨⟨fun n => by simp [twoWaits], rfl, rfl⟩, by decide⟩

end Sys2Proof.Tests
end

section
/-! PROOFS of the family 10_state: what a transaction, a command, an engine step and a step do to each field of the state, and
the statements of that family settled from it. -/

namespace Sys2Proof.Machine

open Sys2Proof

/-! ## The register map -/

theorem Reg.ofNumber_number (r : Reg) : Reg.ofNumber r.number = some r := by
  cases r <;> rfl

theorem Reg.ofNumber_eq_none_iff : ∀ n : BitVec 6, Reg.ofNumber n = none ↔ 0x1A ≤ n.toNat := by
  decide

/-- CB0 to CB3 (10_state R40). -/
def cbRegs : List Reg := [.cb0, .cb1, .cb2, .cb3]

/-- OUT0 to OUT7 (10_state R38). -/
def outRegs : List Reg := [.out0, .out1, .out2, .out3, .out4, .out5, .out6, .out7]

/-- K0 to K3 (10_state R30). -/
def keyRegs : List Reg := [.k0, .k1, .k2, .k3]

theorem Reg.ofNumber_cb : ∀ n : BitVec 6, 0x0E ≤ n.toNat ∧ n.toNat ≤ 0x11 →
    ∃ r ∈ cbRegs, Reg.ofNumber n = some r := by
  decide

theorem Reg.ofNumber_out : ∀ n : BitVec 6, 0x12 ≤ n.toNat ∧ n.toNat ≤ 0x19 →
    ∃ r ∈ outRegs, Reg.ofNumber n = some r := by
  decide

theorem Reg.ofNumber_key : ∀ n : BitVec 6, n = 0x04 ∨ n = 0x05 ∨ n = 0x06 ∨ n = 0x07 →
    ∃ r ∈ keyRegs, Reg.ofNumber n = some r := by
  decide

/-! ## Legal words -/

/-- The legality predicate of 30_encoding R94 is the three checks on the word's fields. -/
theorem legal_eq_wellFormed (w : Word) : legal w = (fieldsOfWord w).wellFormed := by
  simp [legal, CommandFields.wellFormed, CommandFields.rsvZero, CommandFields.opDefined, CommandFields.vcAllowed,
    fieldsOfWord, Bool.decide_and]

/-- The decoder accepts exactly the well-formed fields. -/
theorem isOk_decodeFields (f : CommandFields) : (decodeFields f).isOk = f.wellFormed := by
  by_cases hr : f.rsv = 0
  · obtain ⟨op, vc, rsv⟩ := f
    obtain rfl : rsv = 0 := hr
    revert op vc
    decide
  · have hz : f.rsvZero = false := beq_false_of_ne hr
    rw [decodeFields, if_pos hr]
    simp [CommandFields.wellFormed, hz, Except.isOk, Except.toBool]

/-- A word is legal exactly when it decodes. -/
theorem legal_iff_decode (w : Word) : legal w = true ↔ ∃ i, decode w = some i := by
  rw [legal_eq_wellFormed, ← isOk_decodeFields, decode, decodeWord]
  cases decodeFields (fieldsOfWord w) <;> simp [Except.isOk, Except.toBool]

/-! ## Host transactions -/

/-- Everything a host transaction can do: record an error, clear it, accept a command, store an operand, read, store a
byte of MSG. -/
theorem transact_cases (y : Transaction) (s : State) :
    (∃ c, c ≠ .none ∧ transact y s = raiseError c s) ∨
    (∃ w, y = .regWrite 0x01 w ∧ transact y s = statusWrite w s) ∨
    (∃ w i, y = .regWrite 0x00 w ∧ s.busy = false ∧ decode w = some i ∧ transact y s = acceptCommand i s) ∨
    (∃ r w, y = .regWrite r.number w ∧ s.busy = false ∧ transact y s = storeReg r w s) ∨
    (∃ l d, transact y s = { s with lastRead := l, draws := d }) ∨
    (∃ i b, y = .msgWrite i b ∧ s.busy = false ∧ i.toNat < s.msgCap ∧ transact y s = s.writeMsg i.toNat b) := by
  cases y with
  | regWrite n w =>
    simp only [transact, regWrite]
    cases hr : Reg.ofNumber n with
    | none => exact .inl ⟨.badAddr, nofun, rfl⟩
    | some r =>
      obtain rfl := Reg.number_of_ofNumber n r hr
      simp only
      split_ifs with hro hst hcmd hb
      · exact .inl ⟨.badAddr, nofun, rfl⟩
      · exact .inr (.inl ⟨w, by rw [hst]; rfl, rfl⟩)
      · rcases cmdWrite_cases w s with ⟨-, e⟩ | ⟨-, -, e⟩ | ⟨i, hb, hd, e⟩
        · exact .inl ⟨.busyCmd, nofun, e⟩
        · exact .inl ⟨.illegalCmd, nofun, e⟩
        · exact .inr (.inr (.inl ⟨w, i, by rw [hcmd]; rfl, hb, hd, e⟩))
      · exact .inl ⟨.busyWrite, nofun, rfl⟩
      · exact .inr (.inr (.inr (.inl ⟨r, w, rfl, by simpa using hb, rfl⟩)))
  | regRead n => exact .inr (.inr (.inr (.inr (.inl (regRead_frame n s)))))
  | msgWrite i b =>
    simp only [transact, msgWrite]
    split_ifs with hcap hb
    · exact .inl ⟨.badAddr, nofun, rfl⟩
    · exact .inl ⟨.busyWrite, nofun, rfl⟩
    · exact .inr (.inr (.inr (.inr (.inr ⟨i, b, rfl, by simpa using hb, not_le.1 hcap, rfl⟩))))
  | msgRead i => exact .inr (.inr (.inr (.inr (.inl ⟨_, _, rfl⟩))))

/-- A write to an operand register is rejected while BUSY = 1 and stored otherwise (20_memory R63, its last three cases). -/
theorem transact_operand {n : BitVec 6} {r : Reg} (w : Word) (s : State) (hr : Reg.ofNumber n = some r)
    (hro : r.readOnly = false) (hst : r ≠ .status) (hcmd : r ≠ .cmd) :
    transact (.regWrite n w) s = if s.busy then raiseError .busyWrite s else storeReg r w s := by
  simp [transact, regWrite, hr, hro, hst, hcmd]

/-- A read to which no any-value rule applies returns the register's defined value (20_memory R65). -/
theorem transact_read_defined {n : BitVec 6} {r : Reg} {s : State} (hr : Reg.ofNumber n = some r)
    (hd : readsAnyValue s r = false) :
    transact (.regRead n) s = { s with lastRead := .word (regValue s r) } := by
  simp [transact, regRead, hr, hd]

/-- A read to which it applies returns the next free value and uses it up (10_state R45). -/
theorem transact_read_any {n : BitVec 6} {r : Reg} {s : State} (hr : Reg.ofNumber n = some r)
    (hd : readsAnyValue s r = true) :
    transact (.regRead n) s = { s with lastRead := .word (anyValue s r), draws := s.draws + 1 } := by
  simp [transact, regRead, hr, hd]

theorem readsAnyValue_of_busy {s : State} (hb : s.busy = true) (r : Reg) : readsAnyValue s r = inDestSet s.act r := by
  simp [readsAnyValue, hb]

/-- A read of a register of the active destination set while BUSY = 1 (10_state R45). -/
theorem transact_read_busy {n : BitVec 6} {w : Word} {s : State} (hb : s.busy = true)
    (h : ∃ r, Reg.ofNumber n = some r ∧ inDestSet s.act r = true ∧ anyValue s r = w) :
    transact (.regRead n) s = { s with lastRead := .word w, draws := s.draws + 1 } := by
  obtain ⟨r, hr, hd, rfl⟩ := h
  exact transact_read_any hr ((readsAnyValue_of_busy hb r).trans hd)

theorem readsAnyValue_eq_false {s : State} {r : Reg} (h : inDestSet s.act r = false) : readsAnyValue s r = false := by
  simp [readsAnyValue, h]

/-! ## Whole commands -/

/-- What the engine computes between a command's acceptance and its completion (30_encoding R97, R99). -/
def commandBody : Instr → State → State
  | .enc => repeatPart encRound 32
  | .dec => repeatPart decRound 32
  | .pad => padPart
  | .render | .renderVc => renderPart
  | .pack => packPart
  | .unpack => unpackPart

theorem exec_busy (i : Instr) {s : State} (hb : s.busy = true) : exec i s = .next (raiseError .busyCmd s) := by
  cases i <;> exact if_pos hb

theorem exec_idle (i : Instr) {s : State} (hb : s.busy = false) :
    exec i s = .next (complete (commandBody i (acceptCommand i s))) := by
  cases i <;> exact if_neg (by simp [hb])

/-- What a whole command does: a rejection, or acceptance, its parts and completion. -/
theorem exec_cases {i : Instr} {s t : State} (hs : exec i s = .next t) :
    (s.busy = true ∧ t = raiseError .busyCmd s) ∨
    (s.busy = false ∧ t = complete (commandBody i (acceptCommand i s))) := by
  cases hb : s.busy with
  | true =>
    rw [exec_busy i hb] at hs
    cases hs
    exact .inl ⟨rfl, rfl⟩
  | false =>
    rw [exec_idle i hb] at hs
    cases hs
    exact .inr ⟨rfl, rfl⟩

/-- What an engine step does: nothing to an idle block, else the next part of the active command. -/
theorem engineStep_cases {s t : State} (hs : engineStep s = .next t) :
    (s.busy = false ∧ t = s) ∨
    (s.busy = true ∧
      ((s.act = .enc ∧ t = encPart s) ∨ (s.act = .dec ∧ t = decPart s) ∨ (s.act = .pad ∧ t = complete (padPart s)) ∨
        (s.act = .render ∧ t = complete (renderPart s)) ∨ (s.act = .pack ∧ t = complete (packPart s)) ∨
        (s.act = .unpack ∧ t = complete (unpackPart s)))) := by
  cases hb : s.busy with
  | true => exact .inr ⟨rfl, engineStep_busy hb hs⟩
  | false =>
    rw [engineStep_idle hb] at hs
    cases hs
    exact .inl ⟨rfl, rfl⟩

/-! ## Each operation keeps the invariant -/

theorem inv_raiseError {s : State} (h : s.Inv) {c : ErrorCode} (hc : c ≠ .none) : (raiseError c s).Inv :=
  { h with err_iff_ecode := by simp [hc] }

theorem inv_statusWrite {s : State} (h : s.Inv) (w : Word) : (statusWrite w s).Inv := by
  unfold statusWrite
  split_ifs
  · exact { h with err_iff_ecode := by simp }
  · exact h

/-- Acceptance of a command other than ENC and DEC. -/
theorem inv_accept {s : State} (h : s.Inv) {a : Act} {vc : Bool} (ha : a ∉ [Act.none, .enc, .dec])
    (hvc : vc = true → a = .render) : (accept a vc s).Inv := by
  simp only [List.mem_cons, List.not_mem_nil, or_false, not_or] at ha
  obtain ⟨hnone, henc, hdec⟩ := ha
  exact { h with
    busy_iff_act := by simp [hnone]
    busy_not_done := by simp
    vc_only_render := hvc
    enc_sum := fun e => absurd e henc
    dec_sum := fun e => absurd e hdec }

theorem inv_acceptEnc {s : State} (h : s.Inv) : (acceptEnc s).Inv :=
  { h with
    busy_iff_act := by simp [acceptEnc]
    busy_not_done := by simp [acceptEnc]
    vc_only_render := by simp [acceptEnc]
    rcnt_le := by simp [acceptEnc]
    enc_sum := by simp [acceptEnc]
    dec_sum := by simp [acceptEnc] }

theorem inv_acceptDec {s : State} (h : s.Inv) : (acceptDec s).Inv :=
  { h with
    busy_iff_act := by simp [acceptDec]
    busy_not_done := by simp [acceptDec]
    vc_only_render := by simp [acceptDec]
    rcnt_le := by simp [acceptDec]
    enc_sum := by simp [acceptDec]
    dec_sum := fun _ => ⟨show (0 : BitVec 6).toNat < 32 by decide,
      show deltaTimes32 = delta * BitVec.ofNat 32 (32 - (0 : BitVec 6).toNat) by decide⟩ }

theorem inv_acceptCommand {s : State} (h : s.Inv) (i : Instr) : (acceptCommand i s).Inv := by
  cases i with
  | enc => exact inv_acceptEnc h
  | dec => exact inv_acceptDec h
  | pad => exact inv_accept h (by decide) (by decide)
  | render => exact inv_accept h (by decide) (by decide)
  | renderVc => exact inv_accept h (by decide) (by decide)
  | pack => exact inv_accept h (by decide) (by decide)
  | unpack => exact inv_accept h (by decide) (by decide)

/-- MSG_LEN stores the minimum of the written word and MSG_CAP (10_state R35). -/
theorem clampLen_toNat {cap : Nat} (hcap : cap ≤ 4294967295) (w : Word) : (clampLen cap w).toNat = min w.toNat cap := by
  unfold clampLen
  split_ifs with h
  · exact (min_eq_left h).symm
  · rw [BitVec.toNat_ofNat, Nat.mod_eq_of_lt (by omega)]
    omega

theorem inv_storeReg {s : State} (h : s.Inv) (r : Reg) (w : Word) : (storeReg r w s).Inv := by
  cases r with
  | msgLen =>
    have hle : (clampLen s.msgCap w).toNat ≤ s.msgCap := by
      rw [clampLen_toNat h.cap_le]
      exact min_le_right _ _
    exact { h with msgLen_le := hle }
  | _ => exact { h with }

theorem inv_writeMsg {s : State} (h : s.Inv) {i : Nat} (hi : i < s.msgCap) (b : Byte) : (s.writeMsg i b).Inv :=
  { h with
    msg_wf := writeMsg_wf h.msg_wf i b
    msg_in_range := fun c hc => by
      rcases mem_putCell hc with rfl | hc
      · exact hi
      · exact h.msg_in_range c hc }

theorem inv_transact {s : State} (h : s.Inv) (y : Transaction) : (transact y s).Inv := by
  rcases transact_cases y s with ⟨c, hc, e⟩ | ⟨w, -, e⟩ | ⟨w, i, -, -, -, e⟩ | ⟨r, w, -, -, e⟩ | ⟨l, d, e⟩ |
    ⟨i, b, -, -, hi, e⟩ <;> rw [e]
  · exact inv_raiseError h hc
  · exact inv_statusWrite h w
  · exact inv_acceptCommand h i
  · exact inv_storeReg h r w
  · exact { h with }
  · exact inv_writeMsg h hi b

/-- Completion of a sound state with its Block, SUM and RCNT at any values a round can leave: with no command active the
sum schedule asks nothing. -/
theorem inv_complete_rounds {s : State} (h : s.Inv) (v0 v1 sum : Word) {rcnt : BitVec 6} (hr : rcnt.toNat ≤ 32) :
    (complete { s with v0 := v0, v1 := v1, sum := sum, rcnt := rcnt }).Inv :=
  { h with
    busy_iff_act := by simp
    busy_not_done := by simp
    vc_only_render := by simp
    rcnt_le := hr
    enc_sum := by simp
    dec_sum := by simp }

theorem renderCount_le (vc : Bool) (w : Word) : renderCount vc w ≤ 8 := by
  unfold renderCount clampCount
  split_ifs <;> omega

theorem inv_renderPart {s : State} (h : s.Inv) : (renderPart s).Inv := by
  have hn := renderCount_le s.actVc s.vcount
  have hle : (BitVec.ofNat 4 (renderCount s.actVc s.vcount)).toNat ≤ 8 := by
    rw [BitVec.toNat_ofNat]
    omega
  exact { h with outLen_le := hle }

/-- A round raises RCNT by one, without wrapping while a round is still to come. -/
theorem rcnt_succ_toNat {r : BitVec 6} (h : r.toNat < 32) : (r + 1).toNat = r.toNat + 1 := by
  bv_omega

theorem delta_mul_succ (n : Nat) : delta * BitVec.ofNat 32 (n + 1) = delta * BitVec.ofNat 32 n + delta := by
  rw [BitVec.ofNat_add, BitVec.mul_add]
  congr 1

/-- The end of a round of ENC or DEC: completion if it was the last one, else the sum schedule goes on. -/
theorem inv_completeAfterRounds {s : State} (h : s.Inv) (hr : s.rcnt.toNat < 32) (v0 v1 : Word) {sum : Word}
    (henc : s.act = .enc → sum = delta * BitVec.ofNat 32 (s.rcnt.toNat + 1))
    (hdec : s.act = .dec → sum = delta * BitVec.ofNat 32 (32 - (s.rcnt.toNat + 1))) :
    (completeAfterRounds { s with v0 := v0, v1 := v1, sum := sum, rcnt := s.rcnt + 1 }).Inv := by
  have hsucc : (s.rcnt + 1).toNat = s.rcnt.toNat + 1 := rcnt_succ_toNat hr
  unfold completeAfterRounds
  split_ifs with hlast
  · exact inv_complete_rounds h _ _ _ (by omega)
  · have hlt : (s.rcnt + 1).toNat < 32 := by
      have : (s.rcnt + 1).toNat ≠ 32 := fun e => hlast (BitVec.eq_of_toNat_eq e)
      omega
    exact { h with
      rcnt_le := hlt.le
      enc_sum := fun ha => ⟨hlt, by simpa only [hsucc] using henc ha⟩
      dec_sum := fun ha => ⟨hlt, by simpa only [hsucc] using hdec ha⟩ }

theorem inv_encPart {s : State} (h : s.Inv) (ha : s.act = .enc) : (encPart s).Inv := by
  obtain ⟨hr, hsum⟩ := h.enc_sum ha
  refine inv_completeAfterRounds h hr _ _ (fun _ => ?_) (fun hdec => by simp [ha] at hdec)
  rw [hsum, delta_mul_succ]

theorem inv_decPart {s : State} (h : s.Inv) (ha : s.act = .dec) : (decPart s).Inv := by
  obtain ⟨hr, hsum⟩ := h.dec_sum ha
  refine inv_completeAfterRounds h hr _ _ (fun henc => by simp [ha] at henc) (fun _ => ?_)
  rw [hsum, show 32 - s.rcnt.toNat = 32 - (s.rcnt.toNat + 1) + 1 by omega, delta_mul_succ, BitVec.add_sub_cancel]

/-- PAD, RENDER, PACK and UNPACK complete from a sound state in a sound state. -/
theorem inv_complete {s : State} (h : s.Inv) : (complete s).Inv := inv_complete_rounds h s.v0 s.v1 s.sum h.rcnt_le

theorem inv_engineStep {s t : State} (h : s.Inv) (hs : engineStep s = .next t) : t.Inv := by
  rcases engineStep_cases hs with ⟨-, rfl⟩ |
    ⟨-, ⟨ha, rfl⟩ | ⟨ha, rfl⟩ | ⟨-, rfl⟩ | ⟨-, rfl⟩ | ⟨-, rfl⟩ | ⟨-, rfl⟩⟩
  · exact h
  · exact inv_encPart h ha
  · exact inv_decPart h ha
  · exact inv_complete { h with }
  · exact inv_complete (inv_renderPart h)
  · exact inv_complete { h with }
  · exact inv_complete { h with }

/-- The whole of a command's parts: an accepted cipher command has performed no round, so its 32 rounds leave RCNT = 32. -/
theorem inv_complete_commandBody {s : State} (h : s.Inv) (i : Instr) :
    (complete (commandBody i (acceptCommand i s))).Inv := by
  have ha := inv_acceptCommand h i
  have h32 : ((0 : BitVec 6) + 32).toNat ≤ 32 := by decide
  cases i with
  | enc =>
    simp only [commandBody]
    rw [encRounds_frame]
    exact inv_complete_rounds ha _ _ _ h32
  | dec =>
    simp only [commandBody]
    rw [decRounds_frame]
    exact inv_complete_rounds ha _ _ _ h32
  | pad => exact inv_complete { ha with }
  | render => exact inv_complete (inv_renderPart ha)
  | renderVc => exact inv_complete (inv_renderPart ha)
  | pack => exact inv_complete { ha with }
  | unpack => exact inv_complete { ha with }

theorem inv_exec {i : Instr} {s t : State} (h : s.Inv) (hs : exec i s = .next t) : t.Inv := by
  rcases exec_cases hs with ⟨-, rfl⟩ | ⟨-, rfl⟩
  · exact inv_raiseError h nofun
  · exact inv_complete_commandBody h i

theorem inv_resetBlock {s : State} (h : s.Inv) : (resetBlock s).Inv where
  busy_iff_act := by simp [resetBlock, State.resetNumber]
  busy_not_done := nofun
  vc_only_render := nofun
  err_iff_ecode := by simp [resetBlock, State.resetNumber]
  rcnt_le := Nat.zero_le _
  enc_sum := nofun
  dec_sum := nofun
  outLen_le := Nat.zero_le _
  cap_pos := h.cap_pos
  cap_le := h.cap_le
  msgLen_le := Nat.zero_le _
  msg_wf := .nil
  msg_in_range := nofun
  vars_wf := h.vars_wf
  prog_wf := h.prog_wf

/-! ## The host's lines and the step keep the invariant -/

theorem inv_inputs {s : State} (h : s.Inv) (ms : List Move) : ({ s with inputs := ms } : State).Inv := { h with }

theorem inv_atHostLine {s : State} (h : s.Inv) (k : Nat) : (s.atHostLine k).Inv := { h with }

theorem inv_setHostVar {s : State} (h : s.Inv) (v : Nat) (w : Word) : (s.setHostVar v w).Inv :=
  { h with vars_wf := putCell_rises h.vars_wf v w }

theorem inv_hostBranch {taken : Bool} {l : Label} {s t : State} (h : s.Inv) (hs : hostBranch taken l s = .next t) :
    t.Inv := by
  obtain ⟨k, rfl⟩ := hostBranch_frame hs
  exact inv_atHostLine h k

theorem inv_runLine {x : Line} {s t : State} (h : s.Inv) (hs : runLine x s = .next t) : t.Inv := by
  cases x with
  | bnz v mask l => exact inv_hostBranch h hs
  | bltu a b l => exact inv_hostBranch h hs
  | wr n w => cases hs; exact inv_atHostLine (inv_transact h (.regWrite n _)) _
  | wb i b => cases hs; exact inv_atHostLine (inv_transact h (.msgWrite _ _)) _
  | rd n v => cases hs; exact inv_atHostLine (inv_setHostVar (inv_transact h (.regRead n)) v _) _
  | rb i v => cases hs; exact inv_atHostLine (inv_setHostVar (inv_transact h (.msgRead _)) v _) _
  | label l => cases hs; exact inv_atHostLine h _
  | comment => cases hs; exact inv_atHostLine h _
  | set v w => cases hs; exact inv_atHostLine (inv_setHostVar h v _) _
  | add v w => cases hs; exact inv_atHostLine (inv_setHostVar h v _) _
  | sub v a b => cases hs; exact inv_atHostLine (inv_setHostVar h v _) _
  | min v a b => cases hs; exact inv_atHostLine (inv_setHostVar h v _) _

theorem inv_hostLineStep {s t : State} (h : s.Inv) (hs : hostLineStep s = .next t) : t.Inv := by
  unfold hostLineStep at hs
  split at hs
  · cases hs
    exact h
  · exact inv_runLine h hs

theorem inv_performMove {m : Move} {s t : State} (h : s.Inv) (hs : performMove m s = .next t) : t.Inv := by
  cases m with
  | host y => cases hs; exact inv_transact h y
  | hostLine => exact inv_hostLineStep h hs
  | commandRun w =>
    simp only [performMove, commandRun] at hs
    split at hs
    · exact inv_exec h hs
    · cases hs
      exact inv_transact h (.regWrite 0x00 w)
  | engine => exact inv_engineStep h hs
  | reset => cases hs; exact inv_resetBlock h

/-- Settles O11: a step is one move, and each move keeps the invariant. -/
theorem stepKeepsSoundness : Obligations.StepKeepsSoundness := by
  intro s t h hs
  unfold step at hs
  split at hs
  · unfold unscheduled at hs
    split_ifs at hs
    · exact inv_engineStep h hs
    · exact inv_hostLineStep h hs
  · exact inv_performMove (inv_inputs h _) hs

/-! ## BUSY and DONE -/

theorem storeReg_busy_done (r : Reg) (w : Word) (s : State) :
    (storeReg r w s).busy = s.busy ∧ (storeReg r w s).done = s.done := by
  cases r <;> exact ⟨rfl, rfl⟩

theorem acceptCommand_busy (i : Instr) (s : State) : (acceptCommand i s).busy = true := by
  rw [acceptCommand_frame]

theorem acceptCommand_done (i : Instr) (s : State) : (acceptCommand i s).done = false := by
  rw [acceptCommand_frame]

theorem statusWrite_of_set {w : Word} (hw : w.getLsbD 2 = true) (s : State) : statusWrite w s = clearError s :=
  if_pos hw

theorem statusWrite_of_clear {w : Word} (hw : w.getLsbD 2 = false) (s : State) : statusWrite w s = s :=
  if_neg (Bool.eq_false_iff.1 hw)

theorem statusWrite_busy_done (w : Word) (s : State) :
    (statusWrite w s).busy = s.busy ∧ (statusWrite w s).done = s.done := by
  unfold statusWrite
  split_ifs <;> exact ⟨rfl, rfl⟩

/-- A host transaction changes BUSY and DONE by acceptance alone. -/
theorem transact_busy_done (y : Transaction) (s : State) :
    ((transact y s).busy = s.busy ∧ (transact y s).done = s.done) ∨
    (s.busy = false ∧ (transact y s).busy = true ∧ (transact y s).done = false ∧
      ∃ w, y = .regWrite 0x00 w ∧ legal w = true) := by
  rcases transact_cases y s with ⟨c, -, e⟩ | ⟨w, -, e⟩ | ⟨w, i, hy, hb, hd, e⟩ | ⟨r, w, -, -, e⟩ | ⟨l, d, e⟩ |
    ⟨i, b, -, -, -, e⟩ <;> rw [e]
  · exact .inl ⟨rfl, rfl⟩
  · exact .inl (statusWrite_busy_done w s)
  · exact .inr ⟨hb, acceptCommand_busy i s, acceptCommand_done i s, w, hy, (legal_iff_decode w).2 ⟨i, hd⟩⟩
  · exact .inl (storeReg_busy_done r w s)
  · exact .inl ⟨rfl, rfl⟩
  · exact .inl ⟨rfl, rfl⟩

/-- The round that makes RCNT = 32 is the one with one part left. -/
theorem rcnt_succ_eq_32_iff (r : BitVec 6) : r + 1 = 32 ↔ 32 - r.toNat = 1 := by
  bv_omega

/-- After a round of a busy block: completion if one part was left, else BUSY and DONE stay. -/
theorem completeAfterRounds_busy_done {s : State} {rcnt : BitVec 6} (hr : s.rcnt = rcnt + 1) (hb : s.busy = true) :
    (32 - rcnt.toNat = 1 ∧ (completeAfterRounds s).busy = false ∧ (completeAfterRounds s).done = true) ∨
    (32 - rcnt.toNat ≠ 1 ∧ (completeAfterRounds s).busy = true ∧ (completeAfterRounds s).done = s.done) := by
  unfold completeAfterRounds
  rw [hr]
  split_ifs with hlast
  · exact .inl ⟨(rcnt_succ_eq_32_iff rcnt).1 hlast, rfl, rfl⟩
  · exact .inr ⟨mt (rcnt_succ_eq_32_iff rcnt).2 hlast, hb, rfl⟩

/-- An engine step completes the command of a busy block exactly when one part is left, and else leaves BUSY and DONE. -/
theorem engineStep_busy_done {s t : State} (hs : engineStep s = .next t) :
    (s.busy = true ∧ remainingParts s = 1 ∧ t.busy = false ∧ t.done = true) ∨
    ((s.busy = true → remainingParts s ≠ 1) ∧ t.busy = s.busy ∧ t.done = s.done) := by
  rcases engineStep_cases hs with ⟨hb, rfl⟩ | ⟨hb, hpart⟩
  · exact .inr ⟨by simp [hb], rfl, rfl⟩
  · suffices (remainingParts s = 1 ∧ t.busy = false ∧ t.done = true) ∨
        (remainingParts s ≠ 1 ∧ t.busy = true ∧ t.done = s.done) by
      simpa [hb] using this
    rcases hpart with ⟨ha, rfl⟩ | ⟨ha, rfl⟩ | ⟨ha, rfl⟩ | ⟨ha, rfl⟩ | ⟨ha, rfl⟩ | ⟨ha, rfl⟩ <;>
      simp only [remainingParts, ha]
    · exact completeAfterRounds_busy_done (s := encRound s) rfl hb
    · exact completeAfterRounds_busy_done (s := decRound s) rfl hb
    all_goals exact .inl ⟨trivial, rfl, rfl⟩

/-- A whole command leaves BUSY and DONE of a busy block, and leaves an idle one complete. -/
theorem exec_busy_done {i : Instr} {s t : State} (hs : exec i s = .next t) :
    (t.busy = s.busy ∧ t.done = s.done) ∨ (s.busy = false ∧ t.busy = false ∧ t.done = true) := by
  rcases exec_cases hs with ⟨-, rfl⟩ | ⟨hb, rfl⟩
  · exact .inl ⟨rfl, rfl⟩
  · exact .inr ⟨hb, rfl, rfl⟩

/-- With a command active the engine has a step. -/
theorem engineStep_total {s : State} (hb : s.busy = true) (ha : s.act ≠ .none) : ∃ t, engineStep s = .next t := by
  unfold engineStep
  rw [if_pos hb]
  cases hact : s.act with
  | none => exact absurd hact ha
  | _ => exact ⟨_, rfl⟩

/-- What a step does to BUSY and DONE: reset, nothing, acceptance, a whole command as one step, or the engine's last
part. -/
theorem step_busy_done {s t : State} (h : step s = .next t) :
    (nextIsReset s = true ∧ t.busy = false ∧ t.done = false) ∨
    (t.busy = s.busy ∧ t.done = s.done) ∨
    (s.busy = false ∧ t.busy = true ∧ t.done = false ∧
      ∃ w, nextTransaction s = some (.regWrite 0x00 w) ∧ legal w = true) ∨
    (s.busy = false ∧ t.busy = false ∧ t.done = true ∧
      ∃ w, s.inputs.head? = some (.commandRun w) ∧ legal w = true) ∨
    (s.busy = true ∧ t.busy = false ∧ t.done = true ∧ (s.inputs = [] ∨ s.inputs.head? = some .engine) ∧
      remainingParts s = 1) := by
  rcases step_cases h with ⟨hr, rfl⟩ | ⟨y, hn, e⟩ | ⟨w, i, hin, -, hd, hx⟩ | ⟨hin, hx⟩ | ⟨-, e⟩
  · exact .inl ⟨by simp [nextIsReset, hr], rfl, rfl⟩
  · rw [e]
    rcases transact_busy_done y { s with inputs := s.inputs.tail } with hkeep | ⟨hb, hb', hd', w, hy, hw⟩
    · exact .inr (.inl hkeep)
    · exact .inr (.inr (.inl ⟨hb, hb', hd', w, hy ▸ hn, hw⟩))
  · rcases exec_busy_done hx with hkeep | ⟨hb, hb', hd'⟩
    · exact .inr (.inl hkeep)
    · exact .inr (.inr (.inr (.inl ⟨hb, hb', hd', w, hin, (legal_iff_decode w).2 ⟨i, hd⟩⟩)))
  · rcases engineStep_busy_done hx with ⟨hb, hlast, hb', hd'⟩ | ⟨-, hkeep⟩
    · exact .inr (.inr (.inr (.inr ⟨hb, hb', hd', hin, hlast⟩)))
    · exact .inr (.inl hkeep)
  · rw [e]
    exact .inr (.inl ⟨rfl, rfl⟩)

/-- A legal word's write to an idle block's CMD is an acceptance. -/
theorem transact_legal_cmd {w : Word} {s : State} (hb : s.busy = false) (hw : legal w = true) :
    ∃ i, transact (.regWrite 0x00 w) s = acceptCommand i s := by
  obtain ⟨i, hd⟩ := (legal_iff_decode w).1 hw
  exact ⟨i, transact_cmd hd hb⟩

/-- Settles O43: of what a step does to BUSY and DONE, only acceptance sets BUSY, only reset and the last part clear it. -/
theorem onlyAcceptanceAndCompletionChangeBusy : Obligations.OnlyAcceptanceAndCompletionChangeBusy := by
  refine ⟨fun s t h hs ht => ?_, fun s t h hs ht => ?_, fun s t hi h ht => ?_, fun w s hb hw => ?_,
    fun s hi hb hlast => ?_⟩
  · rcases step_busy_done h with ⟨-, hb, -⟩ | ⟨hb, -⟩ | ⟨-, -, -, hacc⟩ | ⟨-, hb, -⟩ | ⟨hb, -⟩
    case inr.inr.inl => exact hacc
    all_goals simp_all
  · rcases step_busy_done h with ⟨hr, -⟩ | ⟨hb, -⟩ | ⟨hb, -⟩ | ⟨hb, -⟩ | ⟨-, -, hd, hin, hlast⟩
    case inl => exact .inl hr
    case inr.inr.inr.inr => exact .inr ⟨hin, hlast, hd⟩
    all_goals simp_all
  · exact (stepKeepsSoundness s t hi h).busy_iff_act.1 ht
  · obtain ⟨i, e⟩ := transact_legal_cmd hb hw
    rw [e, acceptCommand_busy]
  · obtain ⟨t, ht⟩ := engineStep_total hb (hi.busy_iff_act.1 hb)
    rcases engineStep_busy_done ht with ⟨-, -, hb', -⟩ | ⟨hmore, -⟩
    · exact ⟨t, ht, hb'⟩
    · exact absurd hlast (hmore hb)

/-- The acceptance of a command has no error cause. -/
theorem errorCause_accepted {w : Word} {s : State} (hb : s.busy = false) (hw : legal w = true) :
    errorCause s (.regWrite 0x00 w) = none := by
  simp [errorCause, hb, hw]

/-- Settles O44: of what a step does to BUSY and DONE, only reset and acceptance clear DONE, only the last part and a whole
command as one step set it. -/
theorem onlyAcceptanceAndCompletionChangeDone : Obligations.OnlyAcceptanceAndCompletionChangeDone := by
  refine ⟨fun s t h hs ht => ?_, fun s t h hs ht => ?_, fun x c s hc => ?_, fun s t hi h ht => ?_,
    fun s t hb h ht => ?_, fun w s hb hw => ?_⟩
  · rcases step_busy_done h with ⟨hr, -⟩ | ⟨-, hd⟩ | ⟨hb, hb', -, hacc⟩ | ⟨-, -, hd, -⟩ | ⟨-, -, hd, -⟩
    case inl => exact .inl hr
    case inr.inr.inl => exact .inr ⟨hb, hb', hacc⟩
    all_goals simp_all
  · rcases step_busy_done h with ⟨-, -, hd⟩ | ⟨-, hd⟩ | ⟨-, -, hd, -⟩ | ⟨hb, hb', -, hw⟩ | ⟨hb, hb', -, -, hlast⟩
    case inr.inr.inr.inl => exact ⟨hb', .inr ⟨hb, hw⟩⟩
    case inr.inr.inr.inr => exact ⟨hb', .inl ⟨hb, hlast⟩⟩
    all_goals simp_all
  · rcases transact_busy_done x s with ⟨-, hd⟩ | ⟨hb, -, -, w, rfl, hw⟩
    · exact hd
    · rw [errorCause_accepted hb hw] at hc
      cases hc
  · exact (stepKeepsSoundness s t hi h).busy_not_done ht
  · rcases engineStep_busy_done h with ⟨-, -, -, hd⟩ | ⟨-, hb', -⟩
    · exact hd
    · simp [ht, hb] at hb'
  · obtain ⟨i, e⟩ := transact_legal_cmd hb hw
    rw [e, acceptCommand_done]

/-! ## What a command leaves unchanged -/

/-- `t` is `u` but for what the engine writes: the destination sets and the flags of acceptance, progress and completion
(30_encoding R96 to R98). -/
def SameButEngine (t u : State) : Prop :=
  t = { u with
    busy := t.busy, done := t.done, act := t.act, actVc := t.actVc, rcnt := t.rcnt, v0 := t.v0, v1 := t.v1, sum := t.sum,
    cw := t.cw, cb0 := t.cb0, cb1 := t.cb1, cb2 := t.cb2, cb3 := t.cb3, out0 := t.out0, out1 := t.out1, out2 := t.out2,
    out3 := t.out3, out4 := t.out4, out5 := t.out5, out6 := t.out6, out7 := t.out7, outLen := t.outLen }

theorem completeAfterRounds_frame {t u : State} (h : SameButEngine t u) : SameButEngine (completeAfterRounds t) u := by
  unfold completeAfterRounds
  split_ifs
  · rw [h]
    rfl
  · exact h

theorem engineStep_frame {s t : State} (hs : engineStep s = .next t) : SameButEngine t s := by
  rcases engineStep_cases hs with ⟨-, rfl⟩ |
    ⟨-, ⟨-, rfl⟩ | ⟨-, rfl⟩ | ⟨-, rfl⟩ | ⟨-, rfl⟩ | ⟨-, rfl⟩ | ⟨-, rfl⟩⟩
  case inr.inl => exact completeAfterRounds_frame rfl
  case inr.inr.inl => exact completeAfterRounds_frame rfl
  all_goals rfl

/-- A whole command accepted by an idle block. -/
theorem complete_commandBody_frame (i : Instr) (s : State) :
    SameButEngine (complete (commandBody i (acceptCommand i s))) s := by
  cases i with
  | enc =>
    simp only [commandBody]
    rw [encRounds_frame]
    rfl
  | dec =>
    simp only [commandBody]
    rw [decRounds_frame]
    rfl
  | _ => rfl

/-! ## ERR -/

/-- A transaction that clears ERR is a STATUS write with bit 2 set. -/
theorem transact_clears_err {y : Transaction} {s : State} (hs : s.err = true) (ht : (transact y s).err = false) :
    ∃ w, y = .regWrite 0x01 w ∧ w.getLsbD 2 = true := by
  rcases transact_cases y s with ⟨c, -, e⟩ | ⟨w, hy, e⟩ | ⟨w, i, -, -, -, e⟩ | ⟨r, w, -, -, e⟩ | ⟨l, d, e⟩ |
    ⟨i, b, -, -, -, e⟩ <;> rw [e] at ht
  · simp at ht
  · cases hw : w.getLsbD 2 with
    | true => exact ⟨w, hy, hw⟩
    | false => simp [statusWrite_of_clear hw, hs] at ht
  · simp [acceptCommand_errors, hs] at ht
  · simp [storeReg_errors, hs] at ht
  · simp [hs] at ht
  · simp [hs] at ht

/-- No engine step clears ERR. -/
theorem engineStep_err {s t : State} (hs : engineStep s = .next t) : t.err = s.err := by
  rw [engineStep_frame hs]

/-- No command clears ERR. -/
theorem exec_err {i : Instr} {s t : State} (hs : exec i s = .next t) (he : s.err = true) : t.err = true := by
  rcases exec_cases hs with ⟨-, rfl⟩ | ⟨-, rfl⟩
  · rfl
  · rw [complete_commandBody_frame]
    exact he

/-- Settles O54: of what a step does, only reset and the STATUS write with bit 2 set clear ERR. -/
theorem errorIsStickyUntilCleared : Obligations.ErrorIsStickyUntilCleared := by
  refine ⟨fun w s hw => statusWrite_of_set hw s, fun w s hw => statusWrite_of_clear hw s, raiseError_err,
    fun s t h hs ht => ?_⟩
  · rcases step_cases h with ⟨hr, -⟩ | ⟨y, hn, e⟩ | ⟨w, i, -, -, -, hx⟩ | ⟨-, hx⟩ | ⟨-, e⟩
    · exact .inl (by simp [nextIsReset, hr])
    · rw [e] at ht
      obtain ⟨w, rfl, hw⟩ := transact_clears_err (s := { s with inputs := s.inputs.tail }) hs ht
      exact .inr ⟨w, hn, hw⟩
    · simp [exec_err hx hs] at ht
    · simp [engineStep_err hx, hs] at ht
    · rw [e] at ht
      simp [hs] at ht

/-! ## The Key -/

/-- A key register is no part of any destination set. -/
theorem inDestSet_key (a : Act) {k : Reg} (hk : k ∈ keyRegs) : inDestSet a k = false := by
  revert k
  cases a <;> decide

/-- K0 to K3. -/
def State.key (s : State) : Word × Word × Word × Word := (s.k0, s.k1, s.k2, s.k3)

/-- What a key register reads as depends on the Key alone. -/
theorem regValue_key_congr {k : Reg} (hk : k ∈ keyRegs) {s t : State} (h : t.key = s.key) :
    regValue t k = regValue s k := by
  simp only [State.key, Prod.mk.injEq] at h
  obtain ⟨h0, h1, h2, h3⟩ := h
  simp only [keyRegs, List.mem_cons, List.not_mem_nil, or_false] at hk
  rcases hk with rfl | rfl | rfl | rfl
  · exact h0
  · exact h1
  · exact h2
  · exact h3

/-- A stored operand leaves every key register but its own. -/
theorem storeReg_keeps_key {k r : Reg} (hk : k ∈ keyRegs) (h : k ≠ r) (w : Word) (s : State) :
    regValue (storeReg r w s) k = regValue s k := by
  cases r with
  | k0 | k1 | k2 | k3 => cases k <;> simp_all [keyRegs, storeReg, regValue]
  | _ => exact regValue_key_congr hk rfl

theorem regValue_key_statusWrite {k : Reg} (hk : k ∈ keyRegs) (w : Word) (s : State) :
    regValue (statusWrite w s) k = regValue s k := by
  unfold statusWrite
  split_ifs
  · exact regValue_key_congr hk rfl
  · rfl

/-- A transaction other than a write to a key register itself, and any at all while BUSY = 1, leaves that register. -/
theorem transact_keeps_key {k : Reg} (hk : k ∈ keyRegs) {y : Transaction} {s : State}
    (h : s.busy = true ∨ ∀ w, y ≠ .regWrite k.number w) : regValue (transact y s) k = regValue s k := by
  rcases transact_cases y s with ⟨c, -, e⟩ | ⟨w, -, e⟩ | ⟨w, i, -, -, -, e⟩ | ⟨r, w, hy, hb, e⟩ | ⟨l, d, e⟩ |
    ⟨i, b, -, -, -, e⟩ <;> rw [e]
  · exact regValue_key_congr hk rfl
  · exact regValue_key_statusWrite hk w s
  · rw [acceptCommand_frame]
    exact regValue_key_congr hk rfl
  · refine storeReg_keeps_key hk (fun hr => ?_) w s
    rcases h with hb' | hne
    · simp [hb] at hb'
    · exact hne w (hr ▸ hy)
  · exact regValue_key_congr hk rfl
  · exact regValue_key_congr hk rfl

/-- No command writes the Key. -/
theorem exec_keeps_key {k : Reg} (hk : k ∈ keyRegs) {i : Instr} {s t : State} (hs : exec i s = .next t) :
    regValue t k = regValue s k := by
  rcases exec_cases hs with ⟨-, rfl⟩ | ⟨-, rfl⟩
  · exact regValue_key_congr hk rfl
  · rw [complete_commandBody_frame]
    exact regValue_key_congr hk rfl

/-- Short of reset, a step leaves a key register the host does not write, and every one while BUSY = 1. -/
theorem step_keeps_key {k : Reg} (hk : k ∈ keyRegs) {s t : State} (h : step s = .next t) (hr : nextIsReset s = false)
    (hw : s.busy = true ∨ ∀ w, nextTransaction s ≠ some (.regWrite k.number w)) : regValue t k = regValue s k := by
  have hin : regValue { s with inputs := s.inputs.tail } k = regValue s k := regValue_key_congr hk rfl
  rcases step_cases h with ⟨hr', -⟩ | ⟨y, hn, e⟩ | ⟨w, i, -, -, -, hx⟩ | ⟨-, hx⟩ | ⟨-, e⟩
  · simp [nextIsReset, hr'] at hr
  · have hy : s.busy = true ∨ ∀ w, y ≠ .regWrite k.number w :=
      hw.imp_right fun hne w hyw => hne w (hyw ▸ hn)
    rw [e, ← hin, ← transact_keeps_key (s := { s with inputs := s.inputs.tail }) hk hy]
    exact regValue_key_congr hk rfl
  · exact (exec_keeps_key hk hx).trans hin
  · rw [engineStep_frame hx]
    exact regValue_key_congr hk rfl
  · rw [e]
    exact regValue_key_congr hk rfl

/-- A write to a key register: rejected while BUSY = 1, stored otherwise. -/
theorem transact_key (w : Word) (s : State) {k : Reg} (hk : k ∈ keyRegs) {n : BitVec 6}
    (hn : Reg.ofNumber n = some k) :
    transact (.regWrite n w) s = if s.busy then raiseError .busyWrite s else storeReg k w s := by
  have hop : ∀ k ∈ keyRegs, k.readOnly = false ∧ k ≠ .status ∧ k ≠ .cmd := by decide
  obtain ⟨hro, hst, hcmd⟩ := hop k hk
  exact transact_operand w s hn hro hst hcmd

/-- The Key reads as it is, busy or not. -/
theorem transact_read_key (s : State) {k : Reg} (hk : k ∈ keyRegs) {n : BitVec 6} (hn : Reg.ofNumber n = some k) :
    transact (.regRead n) s = { s with lastRead := .word (regValue s k) } :=
  transact_read_defined hn (readsAnyValue_eq_false (inDestSet_key s.act hk))

/-- Settles O56: a key register is an operand in no destination set, so only its own stored write changes it. -/
theorem keyChangesOnlyByHostWrite : Obligations.KeyChangesOnlyByHostWrite := by
  have hk0 : Reg.k0 ∈ keyRegs := by decide
  have hk1 : Reg.k1 ∈ keyRegs := by decide
  have hk2 : Reg.k2 ∈ keyRegs := by decide
  have hk3 : Reg.k3 ∈ keyRegs := by decide
  refine ⟨fun s t h hr => ⟨fun hn => ?_, fun hn => ?_, fun hn => ?_, fun hn => ?_, fun hb => ⟨?_, ?_, ?_, ?_⟩⟩,
    fun w s hb n hn => ?_, fun w s hb => ⟨?_, ?_, ?_, ?_⟩, fun s => ⟨?_, ?_, ?_, ?_⟩⟩
  · exact step_keeps_key hk0 h hr (.inr hn)
  · exact step_keeps_key hk1 h hr (.inr hn)
  · exact step_keeps_key hk2 h hr (.inr hn)
  · exact step_keeps_key hk3 h hr (.inr hn)
  · exact step_keeps_key hk0 h hr (.inl hb)
  · exact step_keeps_key hk1 h hr (.inl hb)
  · exact step_keeps_key hk2 h hr (.inl hb)
  · exact step_keeps_key hk3 h hr (.inl hb)
  · obtain ⟨k, hk, hkn⟩ := Reg.ofNumber_key n hn
    exact (transact_key w s hk hkn).trans (if_pos hb)
  · exact (transact_key w s hk0 rfl).trans (if_neg (by simp [hb]))
  · exact (transact_key w s hk1 rfl).trans (if_neg (by simp [hb]))
  · exact (transact_key w s hk2 rfl).trans (if_neg (by simp [hb]))
  · exact (transact_key w s hk3 rfl).trans (if_neg (by simp [hb]))
  · exact transact_read_key s hk0 rfl
  · exact transact_read_key s hk1 rfl
  · exact transact_read_key s hk2 rfl
  · exact transact_read_key s hk3 rfl

/-! ## The word of STATUS -/

/-- Bit `k` of STATUS (10_state R22, R28). -/
theorem statusWordWith_getLsbD (s : State) (rcnt : BitVec 6) (k : Nat) : (statusWordWith s rcnt).getLsbD k =
    if k = 0 then s.busy else if k = 1 then s.done else if k = 2 then s.err else if k = 3 then false
    else if k < 8 then s.ecode.code.getLsbD (k - 4) else rcnt.getLsbD (k - 8) := by
  have hcast : statusWordWith s rcnt = BitVec.cast (show 18 + 6 + 4 + 1 + 1 + 1 + 1 = 32 from rfl)
      (0#18 ++ rcnt ++ s.ecode.code ++ 0#1 ++ BitVec.ofBool s.err ++ BitVec.ofBool s.done
        ++ BitVec.ofBool s.busy) := rfl
  rw [hcast, BitVec.getLsbD_cast]
  simp only [BitVec.getLsbD_append]
  match k with
  | 0 | 1 | 2 | 3 => simp
  | k + 4 =>
    by_cases hcode : k < 4
    · simp [hcode]
    · have h8 : ¬ k + 4 < 8 := by omega
      by_cases hrcnt : k - 4 < 6
      · simp [hcode, h8, hrcnt]
      · simp [hcode, h8, hrcnt, BitVec.getLsbD_of_ge rcnt (k - 4) (by omega)]

theorem statusWordWith_ecode (s : State) (rcnt : BitVec 6) :
    (statusWordWith s rcnt).extractLsb' 4 4 = s.ecode.code := by
  refine BitVec.eq_of_getLsbD_eq fun i hi => ?_
  simp [statusWordWith_getLsbD, hi, show 4 + i < 8 by omega, show 4 + i ≠ 1 by omega, show 4 + i ≠ 2 by omega,
    show 4 + i ≠ 3 by omega]

theorem statusWordWith_rcnt (s : State) (rcnt : BitVec 6) :
    (statusWordWith s rcnt).extractLsb' 8 6 = rcnt := by
  refine BitVec.eq_of_getLsbD_eq fun i hi => ?_
  simp [statusWordWith_getLsbD, hi, show 8 + i ≠ 1 by omega, show 8 + i ≠ 2 by omega, show 8 + i ≠ 3 by omega]

theorem statusWordWith_high (s : State) (rcnt : BitVec 6) {k : Nat} (hk : 14 ≤ k) :
    (statusWordWith s rcnt).getLsbD k = false := by
  simp [statusWordWith_getLsbD, show k ≠ 0 by omega, show k ≠ 1 by omega, show k ≠ 2 by omega,
    show ¬ k < 8 by omega, BitVec.getLsbD_of_ge rcnt (k - 8) (by omega)]

theorem statusWordWith_reserved (s : State) (rcnt : BitVec 6) : (statusWordWith s rcnt).extractLsb' 14 18 = 0 := by
  refine BitVec.eq_of_getLsbD_eq fun i hi => ?_
  simp [statusWordWith_high s rcnt (Nat.le_add_right 14 i)]

/-- Bits 7:0 of STATUS do not depend on RCNT. -/
theorem statusWordWith_low (s : State) (r r' : BitVec 6) :
    (statusWordWith s r).extractLsb' 0 8 = (statusWordWith s r').extractLsb' 0 8 := by
  refine BitVec.eq_of_getLsbD_eq fun i hi => ?_
  simp [statusWordWith_getLsbD, hi]

/-- A read of STATUS, in every state, returns its word with some RCNT. -/
theorem transact_read_status (s : State) :
    ∃ rcnt, (transact (.regRead 0x01) s).lastRead = .word (statusWordWith s rcnt) := by
  cases h : readsAnyValue s .status with
  | false => exact ⟨_, by rw [transact_read_defined rfl h]; rfl⟩
  | true => exact ⟨_, by rw [transact_read_any rfl h]; rfl⟩

/-- Settles O49: each field by the bits of the word; the bits that read 0 for every RCNT a read can show. -/
theorem statusWordLayout : Obligations.StatusWordLayout := by
  refine ⟨fun s => ⟨?_, ?_, ?_, statusWordWith_ecode s s.rcnt, statusWordWith_rcnt s s.rcnt⟩, fun s => ?_⟩
  · exact statusWordWith_getLsbD s s.rcnt 0
  · exact statusWordWith_getLsbD s s.rcnt 1
  · exact statusWordWith_getLsbD s s.rcnt 2
  · obtain ⟨rcnt, hread⟩ := transact_read_status s
    exact ⟨_, hread, statusWordWith_getLsbD s rcnt 3, fun k => statusWordWith_high s rcnt⟩

/-! ## Reads of the destination set -/

theorem setWidth_byte (b : Byte) : b.setWidth 32 = 0#24 ++ b :=
  BitVec.setWidth_eq_append (by decide)

theorem anyValue_byte {r : Reg} (hr : r ∈ cbRegs ++ outRegs) (s : State) :
    anyValue s r = 0#24 ++ Config.busyReadByte s.draws := by
  rw [← setWidth_byte]
  cases r with
  | cb0 | cb1 | cb2 | cb3 | out0 | out1 | out2 | out3 | out4 | out5 | out6 | out7 => rfl
  | _ => exact absurd hr (by decide)

/-- Settles O48: each register named is in the destination set, and its any-value read is a draw of its width. -/
theorem busyReadReturnsAnyValue : Obligations.BusyReadReturnsAnyValue := by
  intro s hb
  refine ⟨fun n hn => transact_read_busy hb ?_, fun n hn => transact_read_busy hb ?_,
    fun ha => transact_read_busy hb ?_, fun ha => ?_⟩
  · rcases hn with ⟨ha | ha, rfl | rfl | rfl⟩ | ⟨ha, rfl | rfl⟩ | ⟨ha, rfl⟩ <;> exact ⟨_, rfl, by rw [ha]; rfl, rfl⟩
  · rcases hn with ⟨ha, hn⟩ | ⟨ha, hn⟩
    · obtain ⟨r, hmem, hr⟩ := Reg.ofNumber_cb n hn
      have hd : ∀ r ∈ cbRegs, inDestSet .unpack r = true := by decide
      exact ⟨r, hr, ha ▸ hd r hmem, anyValue_byte (List.mem_append_left _ hmem) s⟩
    · obtain ⟨r, hmem, hr⟩ := Reg.ofNumber_out n hn
      have hd : ∀ r ∈ outRegs, inDestSet .render r = true := by decide
      exact ⟨r, hr, ha ▸ hd r hmem, anyValue_byte (List.mem_append_right _ hmem) s⟩
  · exact ⟨.outLen, rfl, by rw [ha]; rfl, BitVec.setWidth_eq_append (by decide)⟩
  · have hd : inDestSet s.act .status = true := by
      rcases ha with ha | ha <;> rw [ha] <;> rfl
    refine ⟨statusWordWith s _, transact_read_busy hb ⟨.status, rfl, hd, rfl⟩, statusWordWith_low s _ _,
      statusWordWith_reserved s _, ?_⟩
    rw [statusWordWith_rcnt, BitVec.toNat_ofNat]
    omega

/-! ## The register map -/

/-- Settles O50: the map and the numbers undo each other. -/
theorem registerMapIsInjective : Obligations.RegisterMapIsInjective :=
  ⟨Reg.ofNumber_number, Reg.number_of_ofNumber, Reg.ofNumber_eq_none_iff⟩

/-! ## MSG_LEN -/

theorem inDestSet_msgLen (a : Act) : inDestSet a .msgLen = false := by
  cases a <;> rfl

theorem padByte_of_msgLen_le {s : State} {j : Nat} (h : s.msgLen.toNat ≤ s.offset.toNat + j) : padByte s j = 0 :=
  if_neg (not_lt.2 h)

/-- Settles O46: an idle block stores the clamped word, a read returns what is stored. -/
theorem msgLenIsClamped : Obligations.MsgLenIsClamped := by
  intro w s hi hb
  have hw : transact (.regWrite 0x0A w) s = storeReg .msgLen w s :=
    (transact_operand w s (Reg.ofNumber_number .msgLen) rfl nofun nofun).trans (if_neg (by simp [hb]))
  refine ⟨?_, ?_, fun j => padByte_of_msgLen_le, rfl⟩
  · rw [hw]
    exact clampLen_toNat hi.cap_le w
  · rw [transact_read_defined (show Reg.ofNumber 0x0A = some .msgLen from rfl)
      (readsAnyValue_eq_false (inDestSet_msgLen _))]
    rfl

end Sys2Proof.Machine
end

section
/-! PROOFS of the family 20_memory: the engine and host traffic as two agents that touch different fields of the state,
what each host transaction does by its first matching case, and the statements of that family settled from it. -/

namespace Sys2Proof.Machine

open Sys2Proof

/-! ## One step, by the schedule -/

theorem step_scheduled {s : State} {m : Move} {rest : List Move} (h : s.inputs = m :: rest) :
    step s = performMove m { s with inputs := rest } := by
  simp only [step, h]

theorem step_unscheduled {s : State} (h : s.inputs = []) : step s = unscheduled s := by
  simp only [step, h]

theorem hostLineStep_line {s : State} {x : Line} (h : s.host.prog[s.host.line]? = some x) :
    hostLineStep s = runLine x s := by
  simp only [hostLineStep, h]

theorem hostLineStep_end {s : State} (h : s.host.prog[s.host.line]? = none) : hostLineStep s = .next s := by
  simp only [hostLineStep, h]

/-- Settles O6: each clause is the move at the head of the schedule, or the one made when none is listed. -/
theorem stepPerformsScheduledMove : Obligations.StepPerformsScheduledMove := by
  refine ⟨fun s t rest h => step_scheduled h, fun s rest h => step_scheduled h, fun s rest x h hx => ?_,
    fun s rest h hx => ?_, fun s h hb => ?_, fun s x h hb hx => ?_, fun s h hb hx => ?_⟩
  · exact (step_scheduled h).trans (hostLineStep_line hx)
  · exact (step_scheduled h).trans (hostLineStep_end hx)
  · exact (step_unscheduled h).trans (if_pos hb)
  · exact (step_unscheduled h).trans ((if_neg (by simp [hb])).trans (hostLineStep_line hx))
  · exact (step_unscheduled h).trans ((if_neg (by simp [hb])).trans (hostLineStep_end hx))

/-! ## Two states that differ by host traffic alone -/

/-- `s` with the fields host traffic can change taken from `t`. -/
def State.withTraffic (s t : State) : State :=
  { s with
    err := t.err, ecode := t.ecode, lastRead := t.lastRead, draws := t.draws, inputs := t.inputs, host := t.host }

theorem sameButTraffic_iff (t u : State) : SameButTraffic t u ↔ t = u.withTraffic t := Iff.rfl

theorem SameButTraffic.refl (s : State) : SameButTraffic s s := rfl

theorem SameButTraffic.trans {t u v : State} (h : SameButTraffic t u) (h' : SameButTraffic u v) :
    SameButTraffic t v := by
  rw [h, h']
  rfl

theorem SameButTraffic.busy_eq {t u : State} (h : SameButTraffic t u) : t.busy = u.busy := by
  rw [h]

theorem SameButTraffic.act_eq {t u : State} (h : SameButTraffic t u) : t.act = u.act := by
  rw [h]

theorem SameButTraffic.remainingParts_eq {t u : State} (h : SameButTraffic t u) :
    remainingParts t = remainingParts u := by
  rw [h]
  rfl

theorem sameButTraffic_withTraffic (s t : State) : SameButTraffic (s.withTraffic t) s := rfl

theorem completeAfterRounds_withTraffic (s t : State) :
    completeAfterRounds (s.withTraffic t) = (completeAfterRounds s).withTraffic t :=
  (apply_ite (State.withTraffic · t) (s.rcnt = 32) (complete s) s).symm

/-- The engine neither reads nor writes what host traffic changes (30_encoding R97). -/
theorem engineStep_withTraffic {s u : State} (t : State) (h : engineStep s = .next u) :
    engineStep (s.withTraffic t) = .next (u.withTraffic t) := by
  cases hb : s.busy with
  | false =>
    rw [engineStep_idle hb] at h
    cases h
    exact engineStep_idle hb
  | true =>
    unfold engineStep
    rw [if_pos (show (s.withTraffic t).busy = true from hb)]
    rcases engineStep_busy hb h with ⟨ha, rfl⟩ | ⟨ha, rfl⟩ | ⟨ha, rfl⟩ | ⟨ha, rfl⟩ | ⟨ha, rfl⟩ | ⟨ha, rfl⟩ <;>
      rw [show (s.withTraffic t).act = _ from ha]
    · exact congrArg _ (completeAfterRounds_withTraffic (encRound s) t)
    · exact congrArg _ (completeAfterRounds_withTraffic (decRound s) t)
    all_goals rfl

/-- States that differ by host traffic stay so over an engine step, with that traffic unchanged. -/
theorem engineStep_sameButTraffic {s s' u : State} (h : SameButTraffic s' s) (hs : engineStep s = .next u) :
    engineStep s' = .next (u.withTraffic s') := by
  have e := engineStep_withTraffic s' hs
  rwa [← (sameButTraffic_iff s' s).1 h] at e

theorem engineStep_host {s t : State} (h : engineStep s = .next t) : t.host = s.host := by
  rw [engineStep_frame h]

theorem transact_sameButTraffic (x : Transaction) {s : State} (hb : s.busy = true) :
    SameButTraffic (transact x s) s := by
  obtain ⟨e, c, l, d, h⟩ := transact_busy x hb
  rw [h]
  rfl

/-- Settles O41: a transaction of a busy block is traffic, and traffic stays as it is over an engine step. -/
theorem hostTrafficCommutesWithEngine : Obligations.HostTrafficCommutesWithEngine := by
  intro s u x hb hs
  refine ⟨u.withTraffic (transact x s), engineStep_sameButTraffic (transact_sameButTraffic x hb) hs,
    sameButTraffic_withTraffic _ _, ?_⟩
  exact (transact_host x s).trans (engineStep_host hs).symm

/-! ## Traffic of a sound busy block always goes on -/

theorem exists_findLabel {l : Label} {p : List Line} (h : l ∈ p.filterMap Line.defines) (k : Nat) :
    ∃ j, findLabel l p k = some j := by
  induction p generalizing k with
  | nil => cases h
  | cons x rest ih =>
    unfold findLabel
    split_ifs with hx
    · exact ⟨k, rfl⟩
    · refine ih ?_ (k + 1)
      rw [List.mem_filterMap] at h ⊢
      obtain ⟨y, hy, hl⟩ := h
      rcases List.mem_cons.1 hy with rfl | hy
      · exact absurd hl hx
      · exact ⟨y, hy, hl⟩

/-- A well-formed program holds the label each of its lines branches to (log 13). -/
theorem findLabel_of_target {p : List Line} (hp : programWellFormed p = true) {x : Line} (hx : x ∈ p) {l : Label}
    (hl : x.target = some l) : ∃ k, findLabel l p 0 = some k := by
  simp only [programWellFormed, targetsDefined, Bool.and_eq_true, List.all_eq_true, List.contains_iff_mem] at hp
  exact exists_findLabel (hp.1 l (List.mem_filterMap.2 ⟨x, hx, hl⟩)) 0

theorem hostBranch_total {l : Label} {s : State} (h : ∃ k, findLabel l s.host.prog 0 = some k) (taken : Bool) :
    ∃ t, hostBranch taken l s = .next t := by
  obtain ⟨k, hk⟩ := h
  cases taken with
  | true => exact ⟨_, by simp only [hostBranch, hk, if_true]; rfl⟩
  | false => exact ⟨_, rfl⟩

/-- A line whose branch target, if it has one, is held by the program does not stop the host. -/
theorem runLine_total {x : Line} {s : State}
    (h : ∀ l, x.target = some l → ∃ k, findLabel l s.host.prog 0 = some k) : ∃ t, runLine x s = .next t := by
  cases x with
  | bnz v mask l => exact hostBranch_total (h l rfl) _
  | bltu a b l => exact hostBranch_total (h l rfl) _
  | _ => exact ⟨_, rfl⟩

theorem hostLineStep_total {s : State} (h : s.Inv) : ∃ t, hostLineStep s = .next t := by
  cases hx : s.host.prog[s.host.line]? with
  | none => exact ⟨s, hostLineStep_end hx⟩
  | some x =>
    rw [hostLineStep_line hx]
    exact runLine_total fun l => findLabel_of_target h.prog_wf (List.mem_of_getElem? hx)

theorem commandRun_busy (w : Word) {s : State} (hb : s.busy = true) :
    commandRun w s = .next (raiseError .busyCmd s) := by
  unfold commandRun
  split
  · exact exec_busy _ hb
  · exact congrArg _ (if_pos hb)

/-- Traffic other than an engine step leaves a sound busy block as it was but for traffic, and the host too unless the
move is a line of it. -/
theorem performMove_traffic {m : Move} {s : State} (hi : s.Inv) (hb : s.busy = true) (hm : m.isTraffic = true)
    (he : m ≠ .engine) :
    ∃ t, performMove m s = .next t ∧ SameButTraffic t s ∧ t.inputs = s.inputs ∧ (m ≠ .hostLine → t.host = s.host) := by
  cases m with
  | host y =>
    obtain ⟨e, c, l, d, h⟩ := transact_busy y hb
    refine ⟨_, rfl, transact_sameButTraffic y hb, ?_, fun _ => transact_host y s⟩
    rw [h]
  | hostLine =>
    obtain ⟨t, ht⟩ := hostLineStep_total hi
    obtain ⟨hsame, hin⟩ := hostLineStep_busy hb ht
    exact ⟨t, ht, hsame, hin, fun h => absurd rfl h⟩
  | commandRun w => exact ⟨_, commandRun_busy w hb, rfl, rfl, fun _ => rfl⟩
  | engine => exact absurd rfl he
  | reset => cases hm

/-! ## Every interleaving ends alike -/

theorem completeAfterRounds_of_more {s : State} {rcnt : BitVec 6} (hr : s.rcnt = rcnt + 1)
    (hmore : 32 - rcnt.toNat ≠ 1) : completeAfterRounds s = s :=
  if_neg fun e => hmore ((rcnt_succ_eq_32_iff rcnt).1 (hr ▸ e))

/-- An engine step of a command with more than one part left leaves one part less. -/
theorem engineStep_remainingParts {s t : State} (hi : s.Inv) (hb : s.busy = true) (hs : engineStep s = .next t)
    (hmore : remainingParts s ≠ 1) : remainingParts t + 1 = remainingParts s := by
  rcases engineStep_busy hb hs with ⟨ha, rfl⟩ | ⟨ha, rfl⟩ | ⟨ha, -⟩ | ⟨ha, -⟩ | ⟨ha, -⟩ | ⟨ha, -⟩ <;>
    simp only [remainingParts, ha, ne_eq, not_true] at hmore
  · have hr := (hi.enc_sum ha).1
    have hsucc := rcnt_succ_toNat hr
    rw [encPart, completeAfterRounds_of_more rfl hmore]
    simp only [remainingParts, encRound, ha]
    omega
  · have hr := (hi.dec_sum ha).1
    have hsucc := rcnt_succ_toNat hr
    rw [decPart, completeAfterRounds_of_more rfl hmore]
    simp only [remainingParts, decRound, ha]
    omega

theorem engineSteps_succ {s t : State} (n : Nat) (h : engineStep s = .next t) :
    engineSteps (n + 1) s = engineSteps n t := by
  simp only [engineSteps, h]

/-- A scheduled engine step, and the same step of the block without the traffic. -/
theorem step_engine_simulates {s s₀ : State} {rest : List Move} (hsame : SameButTraffic s s₀) (hi : s.Inv)
    (hb : s.busy = true) (hin : s.inputs = .engine :: rest) :
    ∃ t u, step s = .next t ∧ engineStep { s with inputs := rest } = .next t ∧ engineStep s₀ = .next u ∧
      SameButTraffic t u ∧ t.inputs = rest ∧ t.host = s.host := by
  obtain ⟨u, hu⟩ := engineStep_total (hsame.busy_eq ▸ hb) (hsame.act_eq ▸ hi.busy_iff_act.1 hb)
  have hsame' : SameButTraffic { s with inputs := rest } s₀ := SameButTraffic.trans (u := s) rfl hsame
  have ht := engineStep_sameButTraffic hsame' hu
  exact ⟨_, u, (step_scheduled hin).trans ht, ht, hu, sameButTraffic_withTraffic _ _, rfl, rfl⟩

/-- `t` is a completed block with the moves `rest` still to come, and `u` is the same block but for traffic. -/
structure CompletedAlike (rest : List Move) (t u : State) : Prop where
  busy : t.busy = false
  done : t.done = true
  inputs : t.inputs = rest
  same : SameButTraffic t u

/-- The simulation: `s` runs the schedule while `s₀`, the same block but for traffic, makes the engine steps alone. -/
theorem run_simulates_engineSteps {ms rest : List Move} {s s₀ : State} (hsame : SameButTraffic s s₀) (hi : s.Inv)
    (hb : s.busy = true) (hin : s.inputs = ms ++ .engine :: rest) (hms : ∀ m ∈ ms, m.isTraffic = true)
    (hcount : ms.count .engine + 1 = remainingParts s) :
    ∃ t u : State, Host.Core.run Sys2Proof.core (ms.length + 1) s = .next t ∧
      engineSteps (ms.count .engine + 1) s₀ = .next u ∧ CompletedAlike rest t u ∧
      (.hostLine ∉ ms → s.host = s₀.host → t.host = u.host) := by
  induction ms generalizing s s₀ with
  | nil =>
    obtain ⟨t, u, hstep, ht, hu, hsame', hin', hhost⟩ := step_engine_simulates hsame hi hb hin
    rcases engineStep_busy_done ht with ⟨-, -, hb', hd'⟩ | ⟨hmore, -⟩
    · exact ⟨t, u, run_succ 0 hstep, engineSteps_succ 0 hu, ⟨hb', hd', hin', hsame'⟩,
        fun _ h => hhost.trans (h.trans (engineStep_host hu).symm)⟩
    · exact absurd hcount.symm (hmore hb)
  | cons m ms ih =>
    obtain ⟨hm, hms'⟩ := List.forall_mem_cons.1 hms
    have hi' := inv_inputs hi (ms ++ .engine :: rest)
    by_cases he : m = .engine
    · subst he
      rw [List.count_cons_self] at hcount ⊢
      obtain ⟨t, u, hstep, ht, hu, hsame', hin', hhost⟩ := step_engine_simulates hsame hi hb hin
      have hmore : remainingParts s ≠ 1 := by omega
      have hparts := engineStep_remainingParts hi' hb ht hmore
      rcases engineStep_busy_done ht with ⟨-, hlast, -⟩ | ⟨-, hb', -⟩
      · exact absurd hlast hmore
      obtain ⟨t', u', hrun, hsteps, halike, hhost'⟩ :=
        ih hsame' (stepKeepsSoundness s t hi hstep) (hb'.trans hb) hin' hms'
          (Nat.succ_injective (hcount.trans hparts.symm))
      exact ⟨t', u', (run_succ _ hstep).trans hrun, (engineSteps_succ _ hu).trans hsteps, halike, fun hno h =>
        hhost' (List.not_mem_of_not_mem_cons hno) (hhost.trans (h.trans (engineStep_host hu).symm))⟩
    · rw [List.count_cons_of_ne he] at hcount ⊢
      obtain ⟨t, ht, hsame', hin', hhost⟩ := performMove_traffic hi' hb hm he
      have hstep : step s = .next t := (step_scheduled hin).trans ht
      have hts : SameButTraffic t s := hsame'.trans rfl
      obtain ⟨t', u', hrun, hsteps, halike, hhost'⟩ := ih (hts.trans hsame) (stepKeepsSoundness s t hi hstep)
        (hts.busy_eq.trans hb) hin' hms' (hcount.trans hts.remainingParts_eq.symm)
      exact ⟨t', u', (run_succ _ hstep).trans hrun, hsteps, halike, fun hno h =>
        hhost' (List.not_mem_of_not_mem_cons hno) ((hhost (List.ne_of_not_mem_cons hno).symm).trans h)⟩

/-- Settles O42: the simulation from a state and itself. -/
theorem everyInterleavingCompletesAlike : Obligations.EveryInterleavingCompletesAlike := by
  intro s ms rest hi hb hin hms hcount
  obtain ⟨t, u, hrun, hsteps, halike, hhost⟩ := run_simulates_engineSteps (.refl s) hi hb hin hms hcount
  exact ⟨t, u, hrun, hcount ▸ hsteps, halike.busy, halike.done, halike.inputs, halike.same, fun hno => hhost hno rfl⟩

/-! ## Writes, by the first matching case -/

theorem Reg.ofNumber_badAddr : ∀ n : BitVec 6,
    0x1A ≤ n.toNat ∨ n = 0x08 ∨ n = 0x0C ∨ (0x12 ≤ n.toNat ∧ n.toNat ≤ 0x19) →
    Reg.ofNumber n = none ∨ ∃ r ∈ Reg.sum :: .outLen :: outRegs, Reg.ofNumber n = some r := by
  decide

/-- The registers a write stores in (20_memory R63, its last three cases). -/
def operandRegs : List Reg := [.v0, .v1, .k0, .k1, .k2, .k3, .offset, .msgLen, .vcount, .cw, .cb0, .cb1, .cb2, .cb3]

theorem Reg.ofNumber_operand : ∀ n : BitVec 6,
    (0x02 ≤ n.toNat ∧ n.toNat ≤ 0x07) ∨ (0x09 ≤ n.toNat ∧ n.toNat ≤ 0x0B) ∨ (0x0D ≤ n.toNat ∧ n.toNat ≤ 0x11) →
    ∃ r ∈ operandRegs, Reg.ofNumber n = some r := by
  decide

theorem operandRegs_writable : ∀ r ∈ operandRegs, r.readOnly = false ∧ r ≠ .status ∧ r ≠ .cmd := by
  decide

theorem transact_badAddr {n : BitVec 6} (w : Word) (s : State)
    (h : Reg.ofNumber n = none ∨ ∃ r ∈ Reg.sum :: .outLen :: outRegs, Reg.ofNumber n = some r) :
    transact (.regWrite n w) s = raiseError .badAddr s := by
  have hro : ∀ r ∈ Reg.sum :: .outLen :: outRegs, r.readOnly = true := by decide
  rcases h with hn | ⟨r, hmem, hn⟩
  · simp only [transact, regWrite, hn]
  · simp only [transact, regWrite, hn, hro r hmem, if_true]

theorem transact_operand_busy {n : BitVec 6} {r : Reg} (w : Word) {s : State} (hr : r ∈ operandRegs)
    (hn : Reg.ofNumber n = some r) (hb : s.busy = true) :
    transact (.regWrite n w) s = raiseError .busyWrite s := by
  obtain ⟨hro, hst, hcmd⟩ := operandRegs_writable r hr
  exact (transact_operand w s hn hro hst hcmd).trans (if_pos hb)

theorem transact_operand_idle {n : BitVec 6} {r : Reg} (w : Word) {s : State} (hr : r ∈ operandRegs)
    (hn : Reg.ofNumber n = some r) (hb : s.busy = false) :
    transact (.regWrite n w) s = storeReg r w s := by
  obtain ⟨hro, hst, hcmd⟩ := operandRegs_writable r hr
  exact (transact_operand w s hn hro hst hcmd).trans (if_neg (by simp [hb]))

theorem setWidth_low_byte (w : Word) : w.setWidth 8 = w.extractLsb' 0 8 :=
  BitVec.setWidth_eq_extractLsb' (by decide)

/-- Settles O45: each case of R63 by the register its numbers name. -/
theorem regWriteFirstMatchingCase : Obligations.RegWriteFirstMatchingCase := by
  refine ⟨fun n w s hn => transact_badAddr w s (Reg.ofNumber_badAddr n hn), fun w s => rfl, fun w s => rfl,
    fun n w s hb hn => ?_, fun w s hb => ?_⟩
  · obtain ⟨r, hr, hnr⟩ := Reg.ofNumber_operand n hn
    exact transact_operand_busy w hr hnr hb
  · have hstore : ∀ r ∈ operandRegs, transact (.regWrite r.number w) s = storeReg r w s :=
      fun r hr => transact_operand_idle w hr (Reg.ofNumber_number r) hb
    simp only [operandRegs, List.forall_mem_cons, storeReg, setWidth_low_byte] at hstore
    obtain ⟨h0, h1, h2, h3, h4, h5, h6, h7, h8, h9, h10, h11, h12, h13, -⟩ := hstore
    exact ⟨h0, h1, h2, h3, h4, h5, h6, h7, h8, h9, h10, h11, h12, h13⟩

/-- Settles O51: R64's three cases, the stored byte through the laws of MSG. -/
theorem msgWriteFirstMatchingCase : Obligations.MsgWriteFirstMatchingCase := by
  refine fun i b s => ⟨fun hcap => if_pos hcap, fun hcap hb => ?_, fun hcap hb => ?_⟩
  · exact (if_neg (not_le.2 hcap)).trans (if_pos hb)
  · have hw : transact (.msgWrite i b) s = s.writeMsg i.toNat b :=
      (if_neg (not_le.2 hcap)).trans (if_neg (by simp [hb]))
    rw [hw]
    exact ⟨rfl, readMsg_writeMsg_same s _ b, fun a ha => readMsg_writeMsg_other s b ha⟩

/-! ## Reads -/

theorem transact_msgRead (i : Word) (s : State) :
    transact (.msgRead i) s = { s with lastRead := .byte (if i.toNat < s.msgCap then s.readMsg i.toNat else 0) } :=
  rfl

/-- Settles O52: the two cases of R66. -/
theorem msgReadReturnsStoredByte : Obligations.MsgReadReturnsStoredByte := by
  refine fun i s => ⟨fun hcap => ?_, fun hcap => ?_⟩
  · rw [transact_msgRead, if_pos hcap]
  · rw [transact_msgRead, if_neg (not_lt.2 hcap)]

theorem inDestSet_cmd (a : Act) : inDestSet a .cmd = false := by
  cases a <;> rfl

/-- An idle block's read returns the register's defined value. -/
theorem transact_read_idle {n : BitVec 6} {r : Reg} {s : State} (hb : s.busy = false) (hn : Reg.ofNumber n = some r) :
    (transact (.regRead n) s).lastRead = .word (regValue s r) := by
  rw [transact_read_defined hn (by simp [readsAnyValue, hb])]

theorem regValue_outByte (s : State) {j : Nat} (hj : j < 8) :
    ∃ r, Reg.ofNumber (BitVec.ofNat 6 (0x12 + j)) = some r ∧ regValue s r = (s.outByte j).setWidth 32 := by
  interval_cases j <;> exact ⟨_, rfl, rfl⟩

/-- Settles O47: CMD and reserved numbers read 0; every other read is of a named register. -/
theorem regReadReturnsRegister : Obligations.RegReadReturnsRegister := by
  refine ⟨fun n s hn => ?_, fun s hb => ?_, fun n s r hn hd => ?_, regRead_frame⟩
  · rcases hn with rfl | hn
    · exact transact_read_defined (r := .cmd) rfl (readsAnyValue_eq_false (inDestSet_cmd _))
    · simp only [transact, regRead, (Reg.ofNumber_eq_none_iff n).2 hn]
  · have hread : ∀ r : Reg, (transact (.regRead r.number) s).lastRead = .word (regValue s r) :=
      fun r => transact_read_idle hb (Reg.ofNumber_number r)
    have hbyte : ∀ b : Byte, ReadResult.word (b.setWidth 32) = .word (0#24 ++ b) :=
      fun b => congrArg _ (setWidth_byte b)
    refine ⟨hread .status, hread .v0, hread .v1, hread .k0, hread .k1, hread .k2, hread .k3, hread .sum, hread .offset,
      hread .msgLen, hread .vcount, (hread .outLen).trans ?_, hread .cw, (hread .cb0).trans (hbyte _),
      (hread .cb1).trans (hbyte _), (hread .cb2).trans (hbyte _), (hread .cb3).trans (hbyte _), fun j hj => ?_⟩
    · exact congrArg ReadResult.word (BitVec.setWidth_eq_append (by decide))
    · obtain ⟨r, hr, hv⟩ := regValue_outByte s hj
      rw [transact_read_idle hb hr, hv, hbyte]
  · exact transact_read_defined hn (readsAnyValue_eq_false hd)

/-! ## What stays while a command is active -/

/-- What host traffic changes is no register but STATUS. -/
theorem SameButTraffic.regValue_eq {t u : State} (h : SameButTraffic t u) {r : Reg} (hr : r ≠ .status) :
    regValue t r = regValue u r := by
  rw [h]
  cases r with
  | status => exact absurd rfl hr
  | _ => rfl

theorem SameButTraffic.readMsg_eq {t u : State} (h : SameButTraffic t u) (a : Nat) : t.readMsg a = u.readMsg a := by
  rw [h]
  rfl

theorem SameButEngine.readMsg_eq {t u : State} (h : SameButEngine t u) (a : Nat) : t.readMsg a = u.readMsg a := by
  rw [h]
  rfl

theorem regValue_complete (s : State) {r : Reg} (hr : r ≠ .status) : regValue (complete s) r = regValue s r := by
  cases r with
  | status => exact absurd rfl hr
  | _ => rfl

theorem regValue_completeAfterRounds (s : State) {r : Reg} (hr : r ≠ .status) :
    regValue (completeAfterRounds s) r = regValue s r := by
  unfold completeAfterRounds
  split_ifs
  · exact regValue_complete s hr
  · rfl

theorem regValue_encRound {s : State} {r : Reg} (hd : inDestSet .enc r = false) (hr : r ≠ .status) :
    regValue (encRound s) r = regValue s r := by
  cases r with
  | v0 | v1 | sum => cases hd
  | status => exact absurd rfl hr
  | _ => rfl

theorem regValue_decRound {s : State} {r : Reg} (hd : inDestSet .dec r = false) (hr : r ≠ .status) :
    regValue (decRound s) r = regValue s r := by
  cases r with
  | v0 | v1 | sum => cases hd
  | status => exact absurd rfl hr
  | _ => rfl

theorem regValue_padPart {s : State} {r : Reg} (hd : inDestSet .pad r = false) :
    regValue (padPart s) r = regValue s r := by
  cases r with
  | v0 | v1 => cases hd
  | _ => rfl

theorem regValue_renderPart {s : State} {r : Reg} (hd : inDestSet .render r = false) :
    regValue (renderPart s) r = regValue s r := by
  cases r with
  | outLen | out0 | out1 | out2 | out3 | out4 | out5 | out6 | out7 => cases hd
  | _ => rfl

theorem regValue_packPart {s : State} {r : Reg} (hd : inDestSet .pack r = false) :
    regValue (packPart s) r = regValue s r := by
  cases r with
  | cw => cases hd
  | _ => rfl

theorem regValue_unpackPart {s : State} {r : Reg} (hd : inDestSet .unpack r = false) :
    regValue (unpackPart s) r = regValue s r := by
  cases r with
  | cb0 | cb1 | cb2 | cb3 => cases hd
  | _ => rfl

/-- An engine step leaves every register but STATUS outside the active destination set (30_encoding R97). -/
theorem engineStep_keeps_regValue {s t : State} (hs : engineStep s = .next t) {r : Reg} (hr : r ≠ .status)
    (hd : inDestSet s.act r = false) : regValue t r = regValue s r := by
  rcases engineStep_cases hs with ⟨-, rfl⟩ |
    ⟨-, ⟨ha, rfl⟩ | ⟨ha, rfl⟩ | ⟨ha, rfl⟩ | ⟨ha, rfl⟩ | ⟨ha, rfl⟩ | ⟨ha, rfl⟩⟩
  · rfl
  all_goals rw [ha] at hd
  · exact (regValue_completeAfterRounds _ hr).trans (regValue_encRound hd hr)
  · exact (regValue_completeAfterRounds _ hr).trans (regValue_decRound hd hr)
  · exact (regValue_complete _ hr).trans (regValue_padPart hd)
  · exact (regValue_complete _ hr).trans (regValue_renderPart hd)
  · exact (regValue_complete _ hr).trans (regValue_packPart hd)
  · exact (regValue_complete _ hr).trans (regValue_unpackPart hd)

theorem engineStep_readMsg {s t : State} (hs : engineStep s = .next t) (a : Nat) : t.readMsg a = s.readMsg a :=
  (engineStep_frame hs).readMsg_eq a

/-- A step of a busy block short of reset is traffic, or an engine step after the schedule has moved on. -/
theorem step_busy_cases {s t : State} (hb : s.busy = true) (hs : step s = .next t) (hr : nextIsReset s = false) :
    SameButTraffic t s ∨ engineStep { s with inputs := s.inputs.tail } = .next t := by
  rcases step_cases hs with ⟨hr', -⟩ | ⟨y, -, e⟩ | ⟨w, i, -, -, -, hx⟩ | ⟨-, hx⟩ | ⟨-, e⟩
  · simp [nextIsReset, hr'] at hr
  · obtain ⟨_, _, _, _, e'⟩ := transact_busy (s := { s with inputs := s.inputs.tail }) y hb
    rw [e, e']
    exact .inl rfl
  · rw [exec_busy i (s := { s with inputs := s.inputs.tail }) hb] at hx
    cases hx
    exact .inl rfl
  · exact .inr hx
  · rw [e]
    exact .inl rfl

/-- Settles O55: a busy block's step is traffic, which touches no register but STATUS, or the engine's, which writes its
destination set. -/
theorem busyFreezesOperands : Obligations.BusyFreezesOperands := by
  refine ⟨fun x s hb => transact_busy x hb, fun s t hb hs hr => ?_⟩
  rcases step_busy_cases hb hs hr with h | h
  · exact ⟨fun r hst _ => h.regValue_eq hst, h.readMsg_eq⟩
  · have hin : SameButTraffic { s with inputs := s.inputs.tail } s := rfl
    exact ⟨fun r hst hd => (engineStep_keeps_regValue h hst hd).trans (hin.regValue_eq hst),
      fun a => (engineStep_readMsg h a).trans (hin.readMsg_eq a)⟩

/-! ## What changes MSG -/

theorem statusWrite_readMsg (w : Word) (s : State) (a : Nat) : (statusWrite w s).readMsg a = s.readMsg a := by
  unfold statusWrite
  split_ifs <;> rfl

theorem transact_readMsg {y : Transaction} (hy : ∀ i b, y ≠ .msgWrite i b) (s : State) (a : Nat) :
    (transact y s).readMsg a = s.readMsg a := by
  rcases transact_cases y s with ⟨c, -, e⟩ | ⟨w, -, e⟩ | ⟨w, i, -, -, -, e⟩ | ⟨r, w, -, -, e⟩ | ⟨l, d, e⟩ |
    ⟨i, b, h, -⟩
  case inr.inr.inr.inr.inr => exact absurd h (hy i b)
  all_goals rw [e]
  · rfl
  · exact statusWrite_readMsg w s a
  · exact acceptCommand_readMsg i s a
  · exact storeReg_readMsg r w s a
  · rfl

theorem exec_readMsg {i : Instr} {s t : State} (hs : exec i s = .next t) (a : Nat) : t.readMsg a = s.readMsg a := by
  rcases exec_cases hs with ⟨-, rfl⟩ | ⟨-, rfl⟩
  · rfl
  · exact (complete_commandBody_frame i s).readMsg_eq a

/-- Settles O57: of what a step does, only a MsgWrite and reset touch MSG; in a sound state MSG_LEN is at most
MSG_CAP. -/
theorem msgChangesOnlyByHostWrite : Obligations.MsgChangesOnlyByHostWrite := by
  refine ⟨fun s t hs hr hn a => ?_, fun s j hi hj => padByte_of_msgLen_le (hi.msgLen_le.trans hj)⟩
  rcases step_cases hs with ⟨hr', -⟩ | ⟨y, hy, e⟩ | ⟨w, i, -, -, -, hx⟩ | ⟨-, hx⟩ | ⟨-, e⟩
  · simp [nextIsReset, hr'] at hr
  · rw [e]
    exact transact_readMsg (fun i b h => hn i b (h ▸ hy)) { s with inputs := s.inputs.tail } a
  · exact exec_readMsg hx a
  · exact engineStep_readMsg hx a
  · rw [e]
    rfl

end Sys2Proof.Machine
end

section
/-! PROOFS of the family 30_encoding: a command word is its three fields and the decoder inverts the encoder; the engine's
steps from acceptance to completion; the host's lines and the expansion of its pseudo-instructions; and the statements of
that family settled from them. -/

namespace Sys2Proof.Machine

open Sys2Proof

/-! ## Command words -/

/-- The three fields are all 32 bits of a word (30_encoding R90). -/
theorem wordOfFields_fieldsOfWord (w : Word) : wordOfFields (fieldsOfWord w) = w := by
  have hcast : wordOfFields (fieldsOfWord w) = BitVec.cast (show 27 + 1 + 4 = 32 from rfl)
      (w.extractLsb' 5 27 ++ BitVec.ofBool (w.getLsbD 4) ++ w.extractLsb' 0 4) := rfl
  refine BitVec.eq_of_getLsbD_eq fun k hk => ?_
  rw [hcast, BitVec.getLsbD_cast]
  simp only [BitVec.getLsbD_append]
  match k with
  | 0 | 1 | 2 | 3 | 4 => simp
  | k + 5 => simp [show 5 + k = k + 5 by omega, show k < 27 by omega, show ¬ k + 5 < 4 by omega]

theorem commandWord_statement (i : Instr) : Laws.CommandWord.Statement i := by
  cases i with
  | enc => exact Laws.CommandWord.enc
  | dec => exact Laws.CommandWord.dec
  | pad => exact Laws.CommandWord.pad
  | render => exact Laws.CommandWord.render
  | renderVc => exact Laws.CommandWord.renderVc
  | pack => exact Laws.CommandWord.pack
  | unpack => exact Laws.CommandWord.unpack

theorem fieldsOfWord_encode (i : Instr) : fieldsOfWord (encode i) = i.fields := by
  obtain ⟨-, -, h⟩ := commandWord_statement i
  exact h

/-- A word has a command's fields exactly when it is the command's word. -/
theorem fieldsOfWord_eq_fields_iff (w : Word) (i : Instr) : fieldsOfWord w = i.fields ↔ w = encode i := by
  constructor
  · intro h
    rw [← wordOfFields_fieldsOfWord w, h]
    rfl
  · rintro rfl
    exact fieldsOfWord_encode i

/-- The decoder's table read backwards: the fields it takes for a command are the ones the encoder writes. -/
theorem decodeFields_eq_ok_iff (f : CommandFields) (i : Instr) : decodeFields f = .ok i ↔ f = i.fields := by
  obtain ⟨op, vc, rsv⟩ := f
  by_cases hr : rsv = 0
  · subst hr
    revert op vc
    cases i <;> decide
  · have hz : i.fields.rsv = 0 := by cases i <;> rfl
    rw [decodeFields, if_pos hr]
    exact ⟨nofun, fun h => absurd ((congrArg CommandFields.rsv h).trans hz) hr⟩

theorem decode_eq_some_iff (w : Word) (i : Instr) : decode w = some i ↔ w = encode i := by
  rw [← fieldsOfWord_eq_fields_iff, ← decodeFields_eq_ok_iff, decode, decodeWord]
  cases decodeFields (fieldsOfWord w) <;> simp

/-- Settles O3: the round trip through the fields, and legality as decoding. -/
theorem decodeEncodeAgree : Obligations.DecodeEncodeAgree :=
  fun w i => ⟨decode_eq_some_iff w i, legal_iff_decode w⟩

theorem decode_encode (i : Instr) : decode (encode i) = some i := (decode_eq_some_iff _ i).2 rfl

/-- The legal words are the commands' words (30_encoding R94). -/
theorem legal_iff_encode (w : Word) : legal w = true ↔ ∃ i, w = encode i := by
  simp only [legal_iff_decode, decode_eq_some_iff]

theorem legal_iff_fields (w : Word) :
    legal w = true ↔ w.extractLsb' 5 27 = 0 ∧
      (1 ≤ (w.extractLsb' 0 4).toNat ∧ (w.extractLsb' 0 4).toNat ≤ 6) ∧
      (w.getLsbD 4 = false ∨ w.extractLsb' 0 4 = 4) := by
  simp [legal, and_assoc]

/-- Settles O1: each word of R94's list is its command's encoding. -/
theorem commandWordsDecode : Obligations.CommandWordsDecode :=
  ⟨decode_encode .enc, decode_encode .dec, decode_encode .pad, decode_encode .render, decode_encode .renderVc,
    decode_encode .pack, decode_encode .unpack⟩

/-- Settles O2: the predicate field by field, and the words by the commands they encode. -/
theorem legalWordsAreTheSeven : Obligations.LegalWordsAreTheSeven := by
  refine fun w => ⟨legal_iff_fields w, (legal_iff_encode w).trans ⟨?_, ?_⟩⟩
  · rintro ⟨i, rfl⟩
    cases i <;> decide
  · rintro (h | h | h | h | h | h | h)
    exacts [⟨.enc, h⟩, ⟨.dec, h⟩, ⟨.pad, h⟩, ⟨.render, h⟩, ⟨.renderVc, h⟩, ⟨.pack, h⟩, ⟨.unpack, h⟩]

theorem decode_eq_none_of_illegal {w : Word} (hw : legal w = false) : decode w = none := by
  cases hd : decode w with
  | none => rfl
  | some i => simp [(legal_iff_decode w).2 ⟨i, hd⟩] at hw

/-! ## A word written to CMD -/

theorem transact_cmd_busy (w : Word) {s : State} (hb : s.busy = true) :
    transact (.regWrite 0x00 w) s = raiseError .busyCmd s :=
  if_pos hb

theorem cmdWrite_illegal {w : Word} {s : State} (hw : legal w = false) (hb : s.busy = false) :
    cmdWrite w s = raiseError .illegalCmd s := by
  simp [cmdWrite, hb, decode_eq_none_of_illegal hw]

theorem transact_cmd_illegal {w : Word} {s : State} (hw : legal w = false) (hb : s.busy = false) :
    transact (.regWrite 0x00 w) s = raiseError .illegalCmd s :=
  cmdWrite_illegal hw hb

/-- OP is undefined exactly when it is 0 or 7 to 15 (30_encoding R91). -/
theorem op_undefined_iff (op : BitVec 4) : ¬ (1 ≤ op.toNat ∧ op.toNat ≤ 6) ↔ op = 0 ∨ 7 ≤ op.toNat := by
  bv_omega

theorem illegal_iff_fields (w : Word) :
    legal w = false ↔ (w.extractLsb' 0 4 = 0 ∨ 7 ≤ (w.extractLsb' 0 4).toNat) ∨ w.extractLsb' 5 27 ≠ 0 ∨
      (w.getLsbD 4 = true ∧ w.extractLsb' 0 4 ≠ 4) := by
  rw [← op_undefined_iff, ← Bool.not_eq_true, legal_iff_fields, ← Bool.not_eq_false]
  tauto

/-- Settles O4: R101's words by the fields of R94's predicate, and the rejecting branch of the write. -/
theorem illegalWordsAreRejected : Obligations.IllegalWordsAreRejected :=
  ⟨illegal_iff_fields, fun _ _ hw hb => ⟨decode_eq_none_of_illegal hw, transact_cmd_illegal hw hb⟩,
    (illegal_iff_fields 0).2 (.inl (.inl rfl))⟩

/-- Settles O36: the three branches of the write, the accepted word tied to the command it encodes. -/
theorem cmdWriteDecision : Obligations.CmdWriteDecision := by
  refine fun w s => ⟨transact_cmd_busy w, fun hb hw => transact_cmd_illegal hw hb, fun hb hw => ?_⟩
  obtain ⟨i, hd⟩ := (legal_iff_decode w).1 hw
  exact ⟨i, hd, (decode_eq_some_iff w i).1 hd, transact_cmd hd hb⟩

/-- Settles O37: each word of R94's list is accepted as its command. -/
theorem acceptanceEffects : Obligations.AcceptanceEffects := by
  intro s hb
  have haccept : ∀ i, transact (.regWrite 0x00 (encode i)) s = acceptCommand i s :=
    fun i => transact_cmd (decode_encode i) hb
  exact ⟨haccept .enc, haccept .dec, haccept .pad, haccept .render, haccept .renderVc, haccept .pack, haccept .unpack⟩

/-! ## A command as one step -/

theorem commandRun_of_decode {w : Word} {i : Instr} (hd : decode w = some i) (s : State) :
    commandRun w s = exec i s := by
  simp only [commandRun, hd]

theorem commandRun_illegal {w : Word} {s : State} (hw : legal w = false) (hb : s.busy = false) :
    commandRun w s = .next (raiseError .illegalCmd s) := by
  simp only [commandRun, decode_eq_none_of_illegal hw, cmdWrite_illegal hw hb]

theorem tableWord_toNat (w : Word) : tableWord 32 w.toNat = w := by
  rw [tableWord, Nat.mod_eq_of_lt w.isLt, BitVec.ofNat_toNat, BitVec.setWidth_eq]

/-- Settles O5: the scheduled word's run, by what it decodes to and by BUSY. -/
theorem stepRunsDecodedCommand : Obligations.StepRunsDecodedCommand := by
  refine ⟨fun s w rest i hin hd => ?_, fun s i => ?_, fun s w rest hin hb => ?_, fun s w rest hin hb hw => ?_⟩
  · exact (step_scheduled hin).trans (commandRun_of_decode hd _)
  · have hin : (s.withFetchWord 32 (encode i).toNat).inputs = .commandRun (encode i) :: s.inputs := by
      rw [State.withFetchWord, tableWord_toNat]
    exact (step_scheduled hin).trans (commandRun_of_decode (decode_encode i) _)
  · exact (step_scheduled hin).trans (commandRun_busy w (s := { s with inputs := rest }) hb)
  · exact (step_scheduled hin).trans (commandRun_illegal (s := { s with inputs := rest }) hw hb)

/-! ## What an engine step leaves -/

/-- After a round: the command's completion, or the command active as before. -/
theorem completeAfterRounds_flags {s : State} (hb : s.busy = true) :
    ((completeAfterRounds s).busy = false ∧ (completeAfterRounds s).done = true ∧
      (completeAfterRounds s).act = .none ∧ (completeAfterRounds s).actVc = false) ∨
    ((completeAfterRounds s).busy = true ∧ (completeAfterRounds s).done = s.done ∧
      (completeAfterRounds s).act = s.act ∧ (completeAfterRounds s).actVc = s.actVc) := by
  unfold completeAfterRounds
  split_ifs
  · exact .inl ⟨rfl, rfl, rfl, rfl⟩
  · exact .inr ⟨hb, rfl, rfl, rfl⟩

/-- A step of a busy block ends its command or leaves DONE, ACT and ACTVC (30_encoding R97, R98). -/
theorem engineStep_flags {s t : State} (hb : s.busy = true) (hs : engineStep s = .next t) :
    (t.busy = false ∧ t.done = true ∧ t.act = .none ∧ t.actVc = false) ∨
    (t.busy = true ∧ t.done = s.done ∧ t.act = s.act ∧ t.actVc = s.actVc) := by
  rcases engineStep_busy hb hs with ⟨-, rfl⟩ | ⟨-, rfl⟩ | ⟨-, rfl⟩ | ⟨-, rfl⟩ | ⟨-, rfl⟩ | ⟨-, rfl⟩
  · exact completeAfterRounds_flags (s := encRound s) hb
  · exact completeAfterRounds_flags (s := decRound s) hb
  all_goals exact .inl ⟨rfl, rfl, rfl, rfl⟩

/-- A step that clears BUSY completes the command (30_encoding R98). -/
theorem engineStep_completed {s t : State} (hb : s.busy = true) (hs : engineStep s = .next t) (ht : t.busy = false) :
    t.done = true ∧ t.act = .none ∧ t.actVc = false := by
  rcases engineStep_flags hb hs with ⟨-, h⟩ | ⟨ht', -⟩
  · exact h
  · simp [ht] at ht'

/-- A step that keeps BUSY leaves the command active. -/
theorem engineStep_active {s t : State} (hb : s.busy = true) (hs : engineStep s = .next t) (ht : t.busy = true) :
    t.done = s.done ∧ t.act = s.act ∧ t.actVc = s.actVc := by
  rcases engineStep_flags hb hs with ⟨ht', -⟩ | ⟨-, h⟩
  · simp [ht] at ht'
  · exact h

/-- Only a round moves RCNT. -/
theorem engineStep_rcnt {s t : State} (hb : s.busy = true) (hs : engineStep s = .next t) (henc : s.act ≠ .enc)
    (hdec : s.act ≠ .dec) : t.rcnt = s.rcnt := by
  rcases engineStep_busy hb hs with ⟨ha, -⟩ | ⟨ha, -⟩ | ⟨-, rfl⟩ | ⟨-, rfl⟩ | ⟨-, rfl⟩ | ⟨-, rfl⟩
  · exact absurd ha henc
  · exact absurd ha hdec
  all_goals rfl

theorem engineStep_ecode {s t : State} (hs : engineStep s = .next t) : t.ecode = s.ecode := by
  rw [engineStep_frame hs]

theorem engineStep_inputs {s t : State} (hs : engineStep s = .next t) : t.inputs = s.inputs := by
  rw [engineStep_frame hs]

/-- BUSY clears in the step of the last part. -/
theorem engineStep_completes_iff {s t : State} (hb : s.busy = true) (hs : engineStep s = .next t) :
    t.busy = false ↔ remainingParts s = 1 := by
  rcases engineStep_busy_done hs with ⟨-, hlast, hb', -⟩ | ⟨hmore, hb', -⟩
  · exact iff_of_true hb' hlast
  · exact iff_of_false (by simp [hb', hb]) (hmore hb)

/-- Settles O38: the destination set and MSG by the step's frame, the flags by whether it was the last part. -/
theorem engineStepWritesOnlyDestinationSet : Obligations.EngineStepWritesOnlyDestinationSet :=
  ⟨fun _ => engineStep_idle, fun _ _ hb hs =>
    ⟨fun _ => engineStep_keeps_regValue hs, engineStep_readMsg hs, engineStep_err hs, engineStep_ecode hs,
      engineStep_rcnt hb hs, engineStep_completed hb hs, engineStep_active hb hs, engineStep_completes_iff hb hs⟩⟩

/-! ## From acceptance to completion -/

theorem engineStep_enc {s : State} (hb : s.busy = true) (ha : s.act = .enc) : engineStep s = .next (encPart s) := by
  simp only [engineStep, hb, ha, if_true]

theorem engineStep_dec {s : State} (hb : s.busy = true) (ha : s.act = .dec) : engineStep s = .next (decPart s) := by
  simp only [engineStep, hb, ha, if_true]

/-- The step of the round that makes RCNT = 32 ends the command. -/
theorem engineSteps_last_round {n : Nat} {s u v : State} (hpre : engineSteps n s = .next u)
    (hstep : engineStep u = .next (completeAfterRounds v)) (hr : v.rcnt = 32) :
    engineSteps (n + 1) s = .next (complete v) := by
  rw [engineSteps_add n 1 hpre, engineSteps_one, hstep, completeAfterRounds, if_pos hr]

theorem encRounds_active {s : State} (n : Nat) (hb : s.busy = true) (ha : s.act = .enc) :
    (repeatPart encRound n s).busy = true ∧ (repeatPart encRound n s).act = .enc := by
  rw [encRounds_frame]
  exact ⟨hb, ha⟩

theorem decRounds_active {s : State} (n : Nat) (hb : s.busy = true) (ha : s.act = .dec) :
    (repeatPart decRound n s).busy = true ∧ (repeatPart decRound n s).act = .dec := by
  rw [decRounds_frame]
  exact ⟨hb, ha⟩

/-- The engine steps that take ENC from RCNT to 32. -/
theorem engineSteps_enc_all {s : State} (hb : s.busy = true) (ha : s.act = .enc) {n : Nat}
    (hn : s.rcnt.toNat + (n + 1) = 32) :
    engineSteps (n + 1) s = .next (complete (repeatPart encRound (n + 1) s)) := by
  obtain ⟨hb', ha'⟩ := encRounds_active n hb ha
  have hr : (encRound (repeatPart encRound n s)).rcnt = 32 := by
    rw [← repeatPart_succ encRound, encRounds_frame]
    show s.rcnt + BitVec.ofNat 6 (n + 1) = 32
    bv_omega
  rw [repeatPart_succ]
  exact engineSteps_last_round (engineSteps_enc s hb ha n (by omega)) (engineStep_enc hb' ha') hr

/-- The engine steps that take DEC from RCNT to 32. -/
theorem engineSteps_dec_all {s : State} (hb : s.busy = true) (ha : s.act = .dec) {n : Nat}
    (hn : s.rcnt.toNat + (n + 1) = 32) :
    engineSteps (n + 1) s = .next (complete (repeatPart decRound (n + 1) s)) := by
  obtain ⟨hb', ha'⟩ := decRounds_active n hb ha
  have hr : (decRound (repeatPart decRound n s)).rcnt = 32 := by
    rw [← repeatPart_succ decRound, decRounds_frame]
    show s.rcnt + BitVec.ofNat 6 (n + 1) = 32
    bv_omega
  rw [repeatPart_succ]
  exact engineSteps_last_round (engineSteps_dec s hb ha n (by omega)) (engineStep_dec hb' ha') hr

/-- Acceptance leaves RCNT = 0, so the 32 engine steps of ENC or DEC end at RCNT = 32; every other command has one part. -/
theorem engineSteps_accepted (i : Instr) (s : State) :
    engineSteps (partCount i) (acceptCommand i s) = .next (complete (commandBody i (acceptCommand i s))) := by
  cases i with
  | enc => exact engineSteps_enc_all (s := acceptEnc s) rfl rfl (n := 31) rfl
  | dec => exact engineSteps_dec_all (s := acceptDec s) rfl rfl (n := 31) rfl
  | _ => rfl

theorem engineSteps_accepted_busy (i : Instr) (s : State) {k : Nat} (hk : k < partCount i) :
    ∃ u, engineSteps k (acceptCommand i s) = .next u ∧ u.busy = true := by
  cases i with
  | enc =>
    have hn : (acceptEnc s).rcnt.toNat + k < 32 := by simpa [acceptEnc, startRounds, partCount] using hk
    exact ⟨_, engineSteps_enc (acceptEnc s) rfl rfl k hn, (encRounds_active k rfl rfl).1⟩
  | dec =>
    have hn : (acceptDec s).rcnt.toNat + k < 32 := by simpa [acceptDec, startRounds, partCount] using hk
    exact ⟨_, engineSteps_dec (acceptDec s) rfl rfl k hn, (decRounds_active k rfl rfl).1⟩
  | _ =>
    obtain rfl : k = 0 := Nat.lt_one_iff.1 hk
    exact ⟨_, rfl, rfl⟩

/-- Settles O39: both forms are acceptance, the command's parts and completion. -/
theorem atomicFormEqualsEngineSteps : Obligations.AtomicFormEqualsEngineSteps :=
  fun i s hb => ⟨(engineSteps_accepted i s).trans (exec_idle i hb).symm, fun _ => engineSteps_accepted_busy i s⟩

theorem remainingParts_bounds {s : State} (hi : s.Inv) (hb : s.busy = true) :
    1 ≤ remainingParts s ∧ remainingParts s ≤ 32 := by
  unfold remainingParts
  cases ha : s.act with
  | none => exact absurd ha (hi.busy_iff_act.1 hb)
  | enc =>
    have := (hi.enc_sum ha).1
    simp only
    omega
  | dec =>
    have := (hi.dec_sum ha).1
    simp only
    omega
  | pad | render | pack | unpack => simp

/-- With nothing scheduled a sound busy block's step is an engine step (log 8). -/
theorem step_busy_unscheduled {s : State} (hi : s.Inv) (hb : s.busy = true) (hin : s.inputs = []) :
    ∃ t, engineStep s = .next t ∧ step s = .next t := by
  obtain ⟨t, ht⟩ := engineStep_total hb (hi.busy_iff_act.1 hb)
  exact ⟨t, ht, ((step_unscheduled hin).trans (if_pos hb)).trans ht⟩

/-- A run of a sound busy block with nothing scheduled is its engine steps: BUSY holds until the last part. -/
theorem run_completes {n : Nat} {s : State} (hi : s.Inv) (hb : s.busy = true) (hin : s.inputs = [])
    (hn : remainingParts s = n + 1) :
    (∃ t : State, Host.Core.run Sys2Proof.core (n + 1) s = .next t ∧ t.busy = false ∧ t.done = true ∧ t.act = .none) ∧
    ∀ k < n + 1, ∃ u : State, Host.Core.run Sys2Proof.core k s = .next u ∧ u.busy = true := by
  induction n generalizing s with
  | zero =>
    obtain ⟨t, ht, hstep⟩ := step_busy_unscheduled hi hb hin
    have hb' := (engineStep_completes_iff hb ht).2 hn
    obtain ⟨hd, ha, -⟩ := engineStep_completed hb ht hb'
    refine ⟨⟨t, run_succ 0 hstep, hb', hd, ha⟩, fun k hk => ?_⟩
    obtain rfl : k = 0 := Nat.lt_one_iff.1 hk
    exact ⟨s, rfl, hb⟩
  | succ n ih =>
    obtain ⟨t, ht, hstep⟩ := step_busy_unscheduled hi hb hin
    have hmore : remainingParts s ≠ 1 := by omega
    have hb' : t.busy = true := by simpa using mt (engineStep_completes_iff hb ht).1 hmore
    have hparts := engineStep_remainingParts hi hb ht hmore
    obtain ⟨⟨z, hrun, hz⟩, hbusy⟩ :=
      ih (inv_engineStep hi ht) hb' ((engineStep_inputs ht).trans hin) (by omega)
    refine ⟨⟨z, (run_succ _ hstep).trans hrun, hz⟩, fun k hk => ?_⟩
    cases k with
    | zero => exact ⟨s, rfl, hb⟩
    | succ k =>
      obtain ⟨u, hu, hub⟩ := hbusy k (by omega)
      exact ⟨u, (run_succ k hstep).trans hu, hub⟩

/-- Settles O40: the parts left are 1 to 32, and the run of so many steps completes. -/
theorem acceptedCommandCompletes : Obligations.AcceptedCommandCompletes := by
  intro s hi hb hin
  obtain ⟨hpos, hle⟩ := remainingParts_bounds hi hb
  obtain ⟨n, hn⟩ : ∃ n, remainingParts s = n + 1 := ⟨_, (Nat.sub_add_cancel hpos).symm⟩
  rw [hn] at hpos hle ⊢
  exact ⟨hpos, hle, run_completes hi hb hin hn⟩

/-! ## The host's lines -/

/-- The host goes from `s` to `t` by one line: its program stays, and so does every variable but the one the line sets, if
it sets one (30_encoding R104). -/
structure HostAdvances (s t : State) (sets : Option Nat) : Prop where
  line : t.host.line = s.host.line + 1
  prog : t.host.prog = s.host.prog
  vars : ∀ u, sets ≠ some u → t.hostVar u = s.hostVar u

theorem hostVar_congr {s t : State} (h : t.host.vars = s.host.vars) (u : Nat) : t.hostVar u = s.hostVar u := by
  simp only [State.hostVar, h]

/-- A line that sets no variable, after its transaction if it has one. -/
theorem hostAdvances_next {s s' : State} (h : s'.host = s.host) : HostAdvances s s'.nextHostLine none where
  line := congrArg (·.line + 1) h
  prog := by simp [h]
  vars u _ := hostVar_congr (congrArg HostAgent.vars h) u

/-- A line that sets a variable, after its transaction if it has one. -/
theorem hostAdvances_set {s s' : State} (h : s'.host = s.host) (v : Nat) (w : Word) :
    HostAdvances s (s'.setHostVar v w).nextHostLine (some v) where
  line := congrArg (·.line + 1) h
  prog := by simp [h]
  vars u hu := (hostVar_setHostVar_other s' w _ fun e => hu (congrArg some e.symm)).trans
    (hostVar_congr (congrArg HostAgent.vars h) u)

/-- Every line but a branch goes on to the next line. -/
theorem runLine_advances {x : Line} (s : State) (hx : x.target = none) :
    ∃ t, runLine x s = .next t ∧ HostAdvances s t x.sets := by
  cases x with
  | wr n w => exact ⟨_, rfl, hostAdvances_next (transact_host (.regWrite n _) s)⟩
  | rd n v => exact ⟨_, rfl, hostAdvances_set (transact_host (.regRead n) s) v _⟩
  | wb i b => exact ⟨_, rfl, hostAdvances_next (transact_host (.msgWrite _ _) s)⟩
  | rb i v => exact ⟨_, rfl, hostAdvances_set (transact_host (.msgRead _) s) v _⟩
  | label l => exact ⟨_, rfl, hostAdvances_next rfl⟩
  | bnz v mask l => cases hx
  | bltu a b l => cases hx
  | set v w => exact ⟨_, rfl, hostAdvances_set rfl v _⟩
  | add v w => exact ⟨_, rfl, hostAdvances_set rfl v _⟩
  | sub v a b => exact ⟨_, rfl, hostAdvances_set rfl v _⟩
  | min v a b => exact ⟨_, rfl, hostAdvances_set rfl v _⟩
  | comment => exact ⟨_, rfl, hostAdvances_next rfl⟩

/-- A line that performs a transaction is no branch. -/
theorem target_of_lineTransaction {x : Line} {s : State} {y : Transaction} (h : lineTransaction s x = some y) :
    x.target = none := by
  cases x with
  | bnz v mask l => cases h
  | bltu a b l => cases h
  | _ => rfl

/-- A line that performs a transaction leaves its effect on the block and goes to the next line. -/
theorem runLine_transaction {x : Line} {s t : State} {y : Transaction} (hy : lineTransaction s x = some y)
    (h : runLine x s = .next t) : t = { transact y s with host := t.host } ∧ t.host.line = s.host.line + 1 := by
  constructor
  · rcases runLine_cases h with ⟨y', hy', e⟩ | ⟨hnone, -⟩
    · cases hy.symm.trans hy'
      exact e
    · cases hy.symm.trans hnone
  · obtain ⟨t', ht', hadv⟩ := runLine_advances s (target_of_lineTransaction hy)
    cases h.symm.trans ht'
    exact hadv.line

/-- Any other line leaves the block. -/
theorem runLine_no_transaction {x : Line} {s t : State} (hx : lineTransaction s x = none) (h : runLine x s = .next t) :
    t = { s with host := t.host } := by
  rcases runLine_cases h with ⟨y, hy, -⟩ | ⟨-, e⟩
  · cases hx.symm.trans hy
  · exact e

/-! ## Branches -/

/-- A branch to a label the program does not hold (log 13). -/
theorem hostBranch_missing {taken : Bool} {p : Prop} [Decidable p] (hp : taken = true ↔ p) {l : Label} {s : State}
    (hl : findLabel l s.host.prog 0 = none) :
    hostBranch taken l s = if p then .fault .undefinedLabel else .next (s.atHostLine (s.host.line + 1)) := by
  simp only [hostBranch, hl, hp, nextHostLine_eq]

/-- A branch to a label the program holds (30_encoding R104). -/
theorem hostBranch_held {taken : Bool} {p : Prop} [Decidable p] (hp : taken = true ↔ p) {l : Label} {k : Nat}
    {s : State} (hl : findLabel l s.host.prog 0 = some k) :
    hostBranch taken l s = .next (s.atHostLine (if p then k else s.host.line + 1)) := by
  simp only [hostBranch, hl, hp, nextHostLine_eq]
  split_ifs <;> rfl

/-- BLTU's comparison is the words' unsigned order. -/
theorem bltu_taken_iff (a b : Word) : decide (a.toNat < b.toNat) = true ↔ a < b := decide_eq_true_iff

/-! ## Variables -/

theorem minWord_toNat (a b : Word) : (minWord a b).toNat = min a.toNat b.toNat := by
  unfold minWord
  split_ifs with h
  · exact (min_eq_right h.le).symm
  · exact (min_eq_left (not_lt.1 h)).symm

/-- A RegRead returns a word (20_memory R62). -/
theorem regRead_word (n : BitVec 6) (s : State) : ∃ w, (regRead n s).lastRead = .word w := by
  unfold regRead
  split
  · exact ⟨_, rfl⟩
  · split_ifs <;> exact ⟨_, rfl⟩

/-- Settles O58: lines by whether they are transactions, branches by whether the label is held, variables by the laws of
a variable just set. -/
theorem hostLinesDoTheirTransactions : Obligations.HostLinesDoTheirTransactions := by
  refine ⟨fun x s t y => runLine_transaction, fun x s t => runLine_no_transaction, fun x s hx => ?_,
    fun v mask a b l s hl => ⟨hostBranch_missing bne_iff_ne hl, hostBranch_missing (bltu_taken_iff _ _) hl⟩,
    fun v k mask l s hl => hostBranch_held bne_iff_ne hl, fun a b k l s hl => hostBranch_held (bltu_taken_iff _ _) hl,
    fun v w a b s => ?_, fun n v s => ?_, fun i v s => ?_⟩
  · obtain ⟨t, ht, hadv⟩ := runLine_advances s hx
    exact ⟨t, ht, hadv.line, hadv.prog, hadv.vars⟩
  · refine ⟨_, _, _, _, rfl, hostVar_setHostVar s v _ _, rfl, hostVar_setHostVar s v _ _, rfl,
      hostVar_setHostVar s v _ _, rfl, ?_⟩
    exact (congrArg BitVec.toNat (hostVar_setHostVar s v _ _)).trans (minWord_toNat _ _)
  · obtain ⟨w, hw⟩ := regRead_word n s
    exact ⟨_, w, rfl, hw, (hostVar_setHostVar (regRead n s) v _ _).trans (congrArg ReadResult.toWord hw)⟩
  · exact ⟨_, _, rfl, rfl, (hostVar_setHostVar (msgRead (i.value s) s) v _ _).trans (setWidth_byte _)⟩

/-! ## Pseudo-instructions -/

theorem Line.defines_eq_some_iff {x : Line} {l : Label} : x.defines = some l ↔ x = .label l := by
  cases x <;> simp [Line.defines]

theorem label_notMem_strLines (l : Label) (i : Word) (text : List Char) : Line.label l ∉ strLines i text := by
  induction text generalizing i with
  | nil => simp [strLines]
  | cons c rest ih => simp [strLines, ih]

/-- A pseudo-instruction defines no label but the fresh one of a WAIT. -/
theorem eq_fresh_of_label_mem_expand {f l : Label} {p : Pseudo} (h : Line.label l ∈ p.expand f) : l = f := by
  cases p with
  | wait v => simpa [Pseudo.expand] using h
  | str i text => exact absurd h (label_notMem_strLines l i text)
  | _ => simp [Pseudo.expand] at h

/-- Where the source writes no label of the kind kept for WAIT, an assembled one has its source line's number
(log 14). -/
theorem fresh_bounds_of_mem_assemble {k m : Nat} {src : List Source}
    (hsrc : ∀ n, Source.line (.label (.fresh n)) ∉ src) (h : Line.label (.fresh m) ∈ assemble k src) :
    k ≤ m ∧ m < k + src.length := by
  induction src generalizing k with
  | nil => simp [assemble] at h
  | cons y rest ih =>
    have hrest : Line.label (.fresh m) ∈ assemble (k + 1) rest → k ≤ m ∧ m < k + (y :: rest).length := by
      intro hm
      have := ih (fun n => List.not_mem_of_not_mem_cons (hsrc n)) hm
      simp only [List.length_cons]
      omega
    cases y with
    | line x =>
      rcases List.mem_cons.1 h with rfl | hm
      · exact absurd List.mem_cons_self (hsrc m)
      · exact hrest hm
    | pseudo p =>
      rcases List.mem_append.1 h with hm | hm
      · cases eq_fresh_of_label_mem_expand hm
        simp
      · exact hrest hm

/-- A WAIT in assembled source: its lines, and no line before or after that defines its label. -/
theorem assemble_wait {k j v : Nat} {src : List Source} (hsrc : ∀ n, Source.line (.label (.fresh n)) ∉ src)
    (hj : src[j]? = some (.pseudo (.wait v))) :
    ∃ pre post, assemble k src =
        pre ++ [.label (.fresh (k + j)), .rd 0x01 v, .bnz v 0x1 (.fresh (k + j))] ++ post ∧
      ∀ x ∈ pre ++ post, x.defines ≠ some (.fresh (k + j)) := by
  refine ⟨_, _, assemble_split k j src _ hj, fun x hx hdef => ?_⟩
  obtain rfl := Line.defines_eq_some_iff.1 hdef
  rcases List.mem_append.1 hx with hpre | hpost
  · have := fresh_bounds_of_mem_assemble (fun n h => hsrc n (List.mem_of_mem_take h)) hpre
    simp only [List.length_take] at this
    omega
  · have := fresh_bounds_of_mem_assemble (fun n h => hsrc n (List.mem_of_mem_drop h)) hpost
    omega

theorem strLines_length (i : Word) (text : List Char) : (strLines i text).length = text.length := by
  induction text generalizing i with
  | nil => rfl
  | cons c rest ih => simp [strLines, ih]

/-- The k-th line of a STR writes the k-th byte at the k-th index. -/
theorem strLines_getElem? (i : Word) (text : List Char) (k : Nat) :
    (strLines i text)[k]? =
      text[k]?.map fun c => Line.wb (.lit (i + BitVec.ofNat 32 k)) (.lit ((asciiByte c).setWidth 32)) := by
  induction text generalizing i k with
  | nil => rfl
  | cons c rest ih =>
    cases k with
    | zero => simp [strLines]
    | succ k =>
      have hi : i + 1 + BitVec.ofNat 32 k = i + BitVec.ofNat 32 (k + 1) := by
        rw [Nat.add_comm k 1, BitVec.ofNat_add, ← BitVec.add_assoc]
        rfl
      simp only [strLines, List.getElem?_cons_succ, ih, hi]

theorem asciiByte_setWidth {c : Char} (hc : c.toNat < 128) : (asciiByte c).setWidth 32 = BitVec.ofNat 32 c.toNat := by
  apply BitVec.eq_of_toNat_eq
  simp only [asciiByte, BitVec.toNat_setWidth, BitVec.toNat_ofNat]
  omega

theorem expand_str_getElem? {i : Word} {text : List Char} (hwf : (Pseudo.str i text).wellFormed = true) (f : Label)
    (k : Nat) :
    (Pseudo.expand f (.str i text))[k]? =
      text[k]?.map fun c => Line.wb (.lit (i + BitVec.ofNat 32 k)) (.lit (BitVec.ofNat 32 c.toNat)) := by
  simp only [Pseudo.wellFormed, List.all_eq_true, decide_eq_true_eq] at hwf
  refine (strLines_getElem? i text k).trans (Option.map_congr fun c hc => ?_)
  rw [asciiByte_setWidth (hwf c (List.mem_of_getElem? hc))]

/-- Settles O59: WAIT's label by the source line's number, the table line by line, STR by induction on its text. -/
theorem pseudoInstructionsExpand : Obligations.PseudoInstructionsExpand :=
  ⟨fun _ _ _ _ => assemble_wait, fun f _ _ _ _ _ =>
    ⟨rfl, rfl, rfl, rfl, rfl, rfl, rfl, rfl, rfl, rfl, rfl, rfl, fun i text hwf =>
      ⟨strLines_length i text, expand_str_getElem? hwf f⟩⟩⟩

end Sys2Proof.Machine
end

section
/-! PROOFS of the family 40_word_codec: be32 is the concatenation of its bytes and unbe32 takes them apart again; what PACK and
UNPACK do to an idle block, as one step and as their engine step; and the statements of that family settled from them. -/

namespace Sys2Proof.Machine

open Sys2Proof

/-! ## The codec functions -/

/-- The shifted bytes do not overlap: bit k of the word is a bit of one byte, and past their 8 bits the others are 0
(40_codec R120). -/
theorem be32_eq_append (b0 b1 b2 b3 : Byte) : be32 b0 b1 b2 b3 = b0 ++ b1 ++ b2 ++ b3 := by
  refine BitVec.eq_of_getLsbD_eq fun k hk => ?_
  change _ = (BitVec.cast (show 8 + 8 + 8 + 8 = 32 from rfl) (b0 ++ b1 ++ b2 ++ b3)).getLsbD k
  simp only [be32, BitVec.getLsbD_or, BitVec.getLsbD_shiftLeft, BitVec.getLsbD_setWidth, BitVec.getLsbD_cast,
    BitVec.getLsbD_append, Nat.sub_sub]
  split_ifs with h3 h2 h1
  all_goals simp (disch := omega) [decide_eq_true, decide_eq_false, BitVec.getLsbD_of_ge]

/-- Past the last byte of a concatenation come the bits of what stands before it. -/
theorem extractLsb'_append_byte {n : Nat} (x : BitVec n) (b : Byte) (k : Nat) :
    (x ++ b).extractLsb' (k + 8) 8 = x.extractLsb' k 8 :=
  BitVec.extractLsb'_append_eq_of_le (Nat.le_add_left 8 k)

theorem unbe32_be32 (b0 b1 b2 b3 : Byte) :
    unbe32 (be32 b0 b1 b2 b3) 0 = b0 ∧ unbe32 (be32 b0 b1 b2 b3) 1 = b1 ∧ unbe32 (be32 b0 b1 b2 b3) 2 = b2 ∧
      unbe32 (be32 b0 b1 b2 b3) 3 = b3 := by
  rw [be32_eq_append]
  refine ⟨?_, ?_, ?_, ?_⟩
  · exact (extractLsb'_append_byte _ b3 16).trans
      ((extractLsb'_append_byte _ b2 8).trans BitVec.extractLsb'_append_eq_left)
  · exact (extractLsb'_append_byte _ b3 8).trans
      ((extractLsb'_append_byte _ b2 0).trans BitVec.extractLsb'_append_eq_right)
  · exact (extractLsb'_append_byte _ b3 0).trans BitVec.extractLsb'_append_eq_right
  · exact BitVec.extractLsb'_append_eq_right

theorem be32_unbe32 (w : Word) : be32 (unbe32 w 0) (unbe32 w 1) (unbe32 w 2) (unbe32 w 3) = w := by
  have h16 : w.extractLsb' 24 8 ++ w.extractLsb' 16 8 = w.extractLsb' 16 16 :=
    BitVec.extractLsb'_append_extractLsb'_eq_extractLsb' rfl
  have h8 : w.extractLsb' 16 16 ++ w.extractLsb' 8 8 = w.extractLsb' 8 24 :=
    BitVec.extractLsb'_append_extractLsb'_eq_extractLsb' rfl
  have h0 : w.extractLsb' 8 24 ++ w.extractLsb' 0 8 = w.extractLsb' 0 32 :=
    BitVec.extractLsb'_append_extractLsb'_eq_extractLsb' rfl
  calc be32 (unbe32 w 0) (unbe32 w 1) (unbe32 w 2) (unbe32 w 3)
      = w.extractLsb' 24 8 ++ w.extractLsb' 16 8 ++ w.extractLsb' 8 8 ++ w.extractLsb' 0 8 := be32_eq_append _ _ _ _
    _ = w := by rw [h16, h8, h0, BitVec.extractLsb'_eq_self]

/-- Settles O23: both functions by their definitions, and each undoing the other through the concatenation. -/
theorem codecFunctionsAreInverse : Obligations.CodecFunctionsAreInverse :=
  ⟨fun b0 b1 b2 b3 => ⟨rfl, be32_eq_append b0 b1 b2 b3, unbe32_be32 b0 b1 b2 b3⟩,
    fun w => ⟨rfl, rfl, rfl, rfl, be32_unbe32 w⟩⟩

/-! ## PACK and UNPACK -/

/-- A command of one part, written to an idle block's CMD: the one engine step that follows its acceptance is the rest of it
(30_encoding R96 to R99). -/
theorem accepted_then_one_engineStep {w : Word} {i : Instr} {s : State} (hd : decode w = some i) (hp : partCount i = 1)
    (hb : s.busy = false) :
    ∃ u, transact (.regWrite 0x00 w) s = u ∧ u.busy = true ∧ u.done = false ∧ engineSteps 1 u = exec i s := by
  obtain ⟨hsteps, -⟩ := atomicFormEqualsEngineSteps i s hb
  rw [hp] at hsteps
  exact ⟨_, transact_cmd hd hb, acceptCommand_busy i s, acceptCommand_done i s, hsteps⟩

theorem exec_pack_idle {s : State} (hb : s.busy = false) :
    exec .pack s = .next { s with
      cw := s.cb0 ++ s.cb1 ++ s.cb2 ++ s.cb3, busy := false, done := true, act := .none, actVc := false } := by
  rw [← be32_eq_append]
  exact exec_idle .pack hb

theorem regValue_cb_high {r : Reg} (hr : r ∈ cbRegs) (s : State) : (regValue s r).extractLsb' 8 24 = 0 := by
  have hzero : ∀ b : Byte, (b.setWidth 32).extractLsb' 8 24 = 0 := fun b =>
    setWidth_byte b ▸ BitVec.extractLsb'_append_eq_left
  cases r with
  | cb0 | cb1 | cb2 | cb3 => exact hzero _
  | _ => exact absurd hr (by decide)

/-- Settles O24: the whole command on an idle block through the concatenation, on a busy one by its rejection. -/
theorem packWritesCw : Obligations.PackWritesCw :=
  ⟨decode_encode .pack, fun _ => exec_pack_idle, fun _ => accepted_then_one_engineStep (decode_encode .pack) rfl,
    fun s _ hr => regValue_cb_high hr s, fun _ => exec_busy .pack, by decide, by decide, by decide⟩

/-- Settles O25: the whole command on an idle block, which stores the bytes of CW, and its rejection by a busy one. -/
theorem unpackWritesCb : Obligations.UnpackWritesCb :=
  ⟨decode_encode .unpack, fun _ => exec_idle .unpack, fun _ => accepted_then_one_engineStep (decode_encode .unpack) rfl,
    fun _ => exec_busy .unpack, by decide, by decide, by decide⟩

/-- Settles O26: the first command leaves the block idle, so both complete, and the codec functions undo each other. -/
theorem packAndUnpackUndoEachOther : Obligations.PackAndUnpackUndoEachOther :=
  fun s hb => ⟨⟨_, _, exec_idle .pack hb, exec_idle .unpack rfl, unbe32_be32 s.cb0 s.cb1 s.cb2 s.cb3⟩,
    ⟨_, _, exec_idle .unpack hb, exec_idle .pack rfl, be32_unbe32 s.cw⟩⟩

/-! ## The frame of PACK and UNPACK -/

/-- `t` is `u` but for the codec's registers, the flags of completion and the recorded error. -/
def SameButCodec (t u : State) : Prop :=
  t = { u with
    cw := t.cw, cb0 := t.cb0, cb1 := t.cb1, cb2 := t.cb2, cb3 := t.cb3, busy := t.busy, done := t.done, act := t.act,
    actVc := t.actVc, err := t.err, ecode := t.ecode }

theorem exec_codec_frame {i : Instr} {s t : State} (hi : i = .pack ∨ i = .unpack) (hs : exec i s = .next t) :
    SameButCodec t s := by
  rcases exec_cases hs with ⟨-, rfl⟩ | ⟨-, rfl⟩
  · rfl
  · rcases hi with rfl | rfl <;> rfl

theorem exec_pack_cb {s t : State} (hs : exec .pack s = .next t) :
    t.cb0 = s.cb0 ∧ t.cb1 = s.cb1 ∧ t.cb2 = s.cb2 ∧ t.cb3 = s.cb3 := by
  rcases exec_cases hs with ⟨-, rfl⟩ | ⟨-, rfl⟩ <;> exact ⟨rfl, rfl, rfl, rfl⟩

theorem exec_unpack_cw {s t : State} (hs : exec .unpack s = .next t) : t.cw = s.cw := by
  rcases exec_cases hs with ⟨-, rfl⟩ | ⟨-, rfl⟩ <;> rfl

/-- A rejected command changes nothing but the recorded error (30_encoding R95). -/
theorem exec_rejected {i : Instr} {s t : State} (hb : s.busy = true) (hs : exec i s = .next t) :
    t = raiseError .busyCmd s := by
  rw [exec_busy i hb] at hs
  cases hs
  rfl

/-- A command an idle block accepts records no error (60_exceptions R220). -/
theorem exec_idle_errors {i : Instr} {s t : State} (hb : s.busy = false) (hs : exec i s = .next t) :
    t.err = s.err ∧ t.ecode = s.ecode := by
  rw [exec_idle i hb] at hs
  cases hs
  rw [complete_commandBody_frame i s]
  exact ⟨rfl, rfl⟩

/-- Settles O27: the common frame, what each command leaves of the codec's registers, and the two outcomes by BUSY. -/
theorem codecCommandsFrame : Obligations.CodecCommandsFrame := by
  intro i s t hi hs
  have hframe := exec_codec_frame hi hs
  refine ⟨?_, ?_, ?_, exec_readMsg hs, ?_, ?_, fun hb => exec_idle_errors hb hs, fun hb => ?_⟩
  · rw [hframe]
    exact ⟨rfl, rfl, rfl, rfl, rfl, rfl, rfl, rfl, rfl, rfl, rfl, fun _ _ => rfl⟩
  · rintro rfl
    exact exec_pack_cb hs
  · rintro rfl
    exact exec_unpack_cw hs
  · rw [hframe]
    exact ⟨rfl, rfl, rfl, rfl, rfl, rfl⟩
  · rw [hframe]
  · rw [exec_rejected hb hs]
    exact ⟨rfl, rfl, rfl, rfl, rfl, hb, rfl, rfl, rfl⟩

end Sys2Proof.Machine
end

section
/-! PROOFS of the family 41_block_padder: the padded block as two words of four bytes, what is known of a byte of it, what PAD
does to an idle block, and the statements of that family settled from them. -/

namespace Sys2Proof.Machine

open Sys2Proof

/-! ## The padded block -/

/-- The word of the padded block that begins at its byte `k`: V0 is the one from byte 0, V1 the one from byte 4
(41_block_padder R142). -/
def padWord (s : State) (k : Nat) : Word :=
  be32 (padByte s k) (padByte s (k + 1)) (padByte s (k + 2)) (padByte s (k + 3))

theorem padByte_of_lt {s : State} {j : Nat} (h : s.offset.toNat + j < s.msgLen.toNat) :
    padByte s j = s.readMsg (s.offset.toNat + j) :=
  if_pos h

/-- Where OFFSET is at or past MSG_LEN the padding is all there is (41_block_padder R141, R143). -/
theorem padWord_of_msgLen_le {s : State} (h : s.msgLen.toNat ≤ s.offset.toNat) (k : Nat) : padWord s k = 0 := by
  have hbyte : ∀ j, padByte s j = 0 := fun _ => padByte_of_msgLen_le (Nat.le_add_right_of_le h)
  simp only [padWord, hbyte]
  decide

theorem unbe32_padWord (s : State) (k : Nat) {j : Nat} (hj : j < 4) : unbe32 (padWord s k) j = padByte s (k + j) := by
  obtain ⟨h0, h1, h2, h3⟩ := unbe32_be32 (padByte s k) (padByte s (k + 1)) (padByte s (k + 2)) (padByte s (k + 3))
  match j, hj with
  | 0, _ => exact h0
  | 1, _ => exact h1
  | 2, _ => exact h2
  | 3, _ => exact h3

/-- Inside a full block every byte of a padded word is the message's. -/
theorem unbe32_padWord_of_full {s : State} (hfull : s.offset.toNat + 8 ≤ s.msgLen.toNat) {k j : Nat} (hk : k ≤ 4)
    (hj : j < 4) : unbe32 (padWord s k) j = s.readMsg (s.offset.toNat + k + j) := by
  rw [unbe32_padWord s k hj, padByte_of_lt (by omega), Nat.add_assoc]

/-- A byte of the padded block is the same where OFFSET, MSG_LEN and the one message byte it takes are. -/
theorem padByte_eq_of_readMsg_eq {s t : State} {j : Nat} (ho : s.offset = t.offset) (hl : s.msgLen = t.msgLen)
    (hm : s.offset.toNat + j < s.msgLen.toNat → s.readMsg (s.offset.toNat + j) = t.readMsg (s.offset.toNat + j)) :
    padByte s j = padByte t j := by
  unfold padByte
  rw [← ho, ← hl]
  split_ifs with h
  · exact hm h
  · rfl

theorem padWord_congr {s t : State} {k : Nat} (h : ∀ j < 4, padByte s (k + j) = padByte t (k + j)) :
    padWord s k = padWord t k := by
  unfold padWord
  congr 1
  exacts [h 0 (by decide), h 1 (by decide), h 2 (by decide), h 3 (by decide)]

/-! ## PAD -/

/-- PAD forms its block from the state it is accepted in: acceptance touches neither OFFSET nor MSG_LEN nor MSG. -/
theorem exec_pad_idle {s : State} (hb : s.busy = false) :
    exec .pad s = .next { s with
      v0 := padWord s 0, v1 := padWord s 4, busy := false, done := true, act := .none, actVc := false } :=
  exec_idle .pad hb

/-- Settles O28: the bytes named are the padded block's, and a padded word is the concatenation of its bytes. -/
theorem padFormsZeroPaddedBlock : Obligations.PadFormsZeroPaddedBlock := by
  intro s byte hb hbyte
  obtain rfl : byte = padByte s := funext hbyte
  rw [exec_pad_idle hb, padWord, padWord, be32_eq_append, be32_eq_append]

/-- An idle block whose OFFSET is at or past MSG_LEN pads to the zero block (41_block_padder R143). -/
theorem exec_pad_of_msgLen_le {s : State} (hb : s.busy = false) (h : s.msgLen.toNat ≤ s.offset.toNat) :
    ∃ t, exec .pad s = .next t ∧ t.v0 = 0 ∧ t.v1 = 0 :=
  ⟨_, exec_pad_idle hb, padWord_of_msgLen_le h 0, padWord_of_msgLen_le h 4⟩

/-- A sound state's MSG_LEN is at most MSG_CAP, so no message reaches past the last OFFSET. -/
theorem msgLen_le_of_last_offset {s : State} (hi : s.Inv) (ho : s.offset = 0xFFFFFFFF) :
    s.msgLen.toNat ≤ s.offset.toNat := by
  rw [ho]
  exact hi.msgLen_le.trans hi.cap_le

/-- Settles O29: the zero block twice, the second time because MSG_LEN cannot exceed OFFSET; a full block byte by byte; the
rejection. -/
theorem padCornerCases : Obligations.PadCornerCases :=
  ⟨fun _ => exec_pad_of_msgLen_le, fun _ hi hb ho => exec_pad_of_msgLen_le hb (msgLen_le_of_last_offset hi ho),
    fun _ hb hfull => ⟨_, exec_pad_idle hb, fun _ => unbe32_padWord_of_full hfull (Nat.zero_le 4),
      fun _ => unbe32_padWord_of_full hfull le_rfl⟩,
    fun _ => exec_busy .pad⟩

/-- Settles O30: each byte of the block takes one message byte at most, one of the eight from OFFSET. -/
theorem padDependsOnlyOnItsBytes : Obligations.PadDependsOnlyOnItsBytes := by
  intro s₁ s₂ hb₁ hb₂ ho hl hm
  have hbyte : ∀ j < 8, padByte s₁ j = padByte s₂ j := fun j hj =>
    padByte_eq_of_readMsg_eq ho hl (hm _ (Nat.le_add_right _ _) (Nat.add_lt_add_left hj _))
  exact ⟨_, _, exec_pad_idle hb₁, exec_pad_idle hb₂, padWord_congr fun j hj => hbyte _ (by omega),
    padWord_congr fun j hj => hbyte _ (by omega)⟩

/-! ## The frame of PAD -/

/-- `t` is `u` but for V0 and V1, the flags of completion and the recorded error. -/
def SameButBlock (t u : State) : Prop :=
  t = { u with
    v0 := t.v0, v1 := t.v1, busy := t.busy, done := t.done, act := t.act, actVc := t.actVc, err := t.err,
    ecode := t.ecode }

theorem exec_pad_frame {s t : State} (hs : exec .pad s = .next t) : SameButBlock t s := by
  rcases exec_cases hs with ⟨-, rfl⟩ | ⟨-, rfl⟩ <;> rfl

/-- Settles O31: the common frame, and the two outcomes by BUSY. -/
theorem padFrame : Obligations.PadFrame := by
  intro s t hs
  have hframe := exec_pad_frame hs
  refine ⟨?_, exec_readMsg hs, ?_, ?_, fun hb => exec_idle_errors hb hs, fun hb => ?_⟩
  · rw [hframe]
    exact ⟨rfl, rfl, rfl, rfl, rfl, rfl, rfl, rfl, rfl, rfl, rfl, rfl, rfl, rfl, fun _ _ => rfl⟩
  · rw [hframe]
    exact ⟨rfl, rfl, rfl, rfl, rfl, rfl⟩
  · rw [hframe]
  · rw [exec_rejected hb hs]
    exact ⟨rfl, rfl, hb, rfl, rfl, rfl⟩

end Sys2Proof.Machine
end

section
/-! PROOFS of the family 42_tea_cipher: the loops of TeaEnc and TeaDec and how one undoes the other; ENC and DEC in closed
form, round by round and as a frame; and the statements of that family settled from them. -/

namespace Sys2Proof.Machine

open Sys2Proof

/-! ## The sum schedule -/

/-- Settles O18: closed arithmetic modulo 2^32. -/
theorem deltaTimes32IsTheConstant : Obligations.DeltaTimes32IsTheConstant :=
  ⟨by decide, rfl, by decide⟩

theorem delta_mul_32 : delta * BitVec.ofNat 32 32 = deltaTimes32 := by decide

theorem deltaTimes32_sub_all : deltaTimes32 - delta * BitVec.ofNat 32 32 = 0 := by decide

/-- DEC's sum after `n` of its rounds, counted from the other end (42_tea R168). -/
theorem deltaTimes32_sub {n : Nat} (hn : n ≤ 32) :
    deltaTimes32 - delta * BitVec.ofNat 32 n = delta * BitVec.ofNat 32 (32 - n) := by
  have hall : deltaTimes32 = delta * BitVec.ofNat 32 (32 - n + n) := by rw [Nat.sub_add_cancel hn, delta_mul_32]
  rw [hall, BitVec.ofNat_add, BitVec.mul_add, BitVec.add_sub_cancel]

/-! ## The loops of TeaEnc and TeaDec -/

theorem repeatPart_eq_iterate {α : Type} (f : α → α) (n : Nat) : repeatPart f n = f^[n] := by
  induction n with
  | zero => rfl
  | succ n ih => exact funext fun x => congrFun ih (f x)

/-- A part undone by another is undone as often as it was performed. -/
theorem repeatPart_leftInverse {α : Type} {f g : α → α} (h : Function.LeftInverse f g) (n : Nat) :
    Function.LeftInverse (repeatPart f n) (repeatPart g n) := by
  rw [repeatPart_eq_iterate, repeatPart_eq_iterate]
  exact h.iterate n

section Loops
variable (k0 k1 k2 k3 : Word)

/-- The half-updates are undone in reverse order, each with the sum and the other word it was made with (42_tea R167). -/
theorem teaDecRound_leftInverse : Function.LeftInverse (teaDecRound k0 k1 k2 k3) (teaEncRound k0 k1 k2 k3) := by
  rintro ⟨v0, v1, sum⟩
  simp only [teaDecRound, teaEncRound, BitVec.add_sub_cancel]

theorem teaEncRound_leftInverse : Function.LeftInverse (teaEncRound k0 k1 k2 k3) (teaDecRound k0 k1 k2 k3) := by
  rintro ⟨v0, v1, sum⟩
  simp only [teaDecRound, teaEncRound, BitVec.sub_add_cancel]

theorem teaEncRounds_sum (n : Nat) (x : Word × Word × Word) :
    (repeatPart (teaEncRound k0 k1 k2 k3) n x).2.2 = x.2.2 + delta * BitVec.ofNat 32 n := by
  induction n with
  | zero => simp [repeatPart]
  | succ n ih => rw [repeatPart_succ, teaEncRound, ih, delta_mul_succ, BitVec.add_assoc]

theorem teaDecRounds_sum (n : Nat) (x : Word × Word × Word) :
    (repeatPart (teaDecRound k0 k1 k2 k3) n x).2.2 = x.2.2 - delta * BitVec.ofNat 32 n := by
  induction n with
  | zero => simp [repeatPart]
  | succ n ih => rw [repeatPart_succ, teaDecRound, ih, delta_mul_succ, BitVec.sub_sub]

/-- TeaEnc's loop ends with the sum TeaDec's begins with. -/
theorem teaEncRounds_eq (v0 v1 : Word) :
    repeatPart (teaEncRound k0 k1 k2 k3) 32 (v0, v1, 0) =
      ((teaEnc v0 v1 k0 k1 k2 k3).1, (teaEnc v0 v1 k0 k1 k2 k3).2, deltaTimes32) := by
  have hsum : (repeatPart (teaEncRound k0 k1 k2 k3) 32 (v0, v1, 0)).2.2 = deltaTimes32 :=
    (teaEncRounds_sum k0 k1 k2 k3 32 _).trans ((BitVec.zero_add _).trans delta_mul_32)
  rw [← hsum, teaEnc]

/-- TeaDec's loop ends with the sum TeaEnc's begins with. -/
theorem teaDecRounds_eq (v0 v1 : Word) :
    repeatPart (teaDecRound k0 k1 k2 k3) 32 (v0, v1, deltaTimes32) =
      ((teaDec v0 v1 k0 k1 k2 k3).1, (teaDec v0 v1 k0 k1 k2 k3).2, 0) := by
  have hsum : (repeatPart (teaDecRound k0 k1 k2 k3) 32 (v0, v1, deltaTimes32)).2.2 = 0 :=
    (teaDecRounds_sum k0 k1 k2 k3 32 _).trans deltaTimes32_sub_all
  rw [← hsum, teaDec]

theorem teaDec_teaEnc (v0 v1 : Word) :
    teaDec (teaEnc v0 v1 k0 k1 k2 k3).1 (teaEnc v0 v1 k0 k1 k2 k3).2 k0 k1 k2 k3 = (v0, v1) := by
  rw [teaDec, ← teaEncRounds_eq, repeatPart_leftInverse (teaDecRound_leftInverse k0 k1 k2 k3)]

theorem teaEnc_teaDec (v0 v1 : Word) :
    teaEnc (teaDec v0 v1 k0 k1 k2 k3).1 (teaDec v0 v1 k0 k1 k2 k3).2 k0 k1 k2 k3 = (v0, v1) := by
  rw [teaEnc, ← teaDecRounds_eq, repeatPart_leftInverse (teaEncRound_leftInverse k0 k1 k2 k3)]

end Loops

/-! ## ENC and DEC in closed form -/

/-- The 32 rounds after ENC's acceptance are TeaEnc's loop on the Block (42_tea R164). -/
theorem encRounds_acceptEnc (s : State) :
    repeatPart encRound 32 (acceptEnc s) = { acceptEnc s with
      v0 := (teaEnc s.v0 s.v1 s.k0 s.k1 s.k2 s.k3).1, v1 := (teaEnc s.v0 s.v1 s.k0 s.k1 s.k2 s.k3).2,
      sum := deltaTimes32, rcnt := 32 } := by
  have hloop := (encRounds_closed 32 (acceptEnc s)).trans (teaEncRounds_eq s.k0 s.k1 s.k2 s.k3 s.v0 s.v1)
  obtain ⟨hv0, hv1, -⟩ : _ ∧ _ ∧ _ := by simpa only [Prod.mk.injEq] using hloop
  have hsum : (acceptEnc s).sum + delta * BitVec.ofNat 32 32 = deltaTimes32 := (BitVec.zero_add _).trans delta_mul_32
  rw [encRounds_frame, hv0, hv1, hsum]
  rfl

/-- The 32 rounds after DEC's acceptance are TeaDec's loop on the Block (42_tea R165). -/
theorem decRounds_acceptDec (s : State) :
    repeatPart decRound 32 (acceptDec s) = { acceptDec s with
      v0 := (teaDec s.v0 s.v1 s.k0 s.k1 s.k2 s.k3).1, v1 := (teaDec s.v0 s.v1 s.k0 s.k1 s.k2 s.k3).2,
      sum := 0, rcnt := 32 } := by
  have hloop := (decRounds_closed 32 (acceptDec s)).trans (teaDecRounds_eq s.k0 s.k1 s.k2 s.k3 s.v0 s.v1)
  obtain ⟨hv0, hv1, -⟩ : _ ∧ _ ∧ _ := by simpa only [Prod.mk.injEq] using hloop
  have hsum : (acceptDec s).sum - delta * BitVec.ofNat 32 32 = 0 := deltaTimes32_sub_all
  rw [decRounds_frame, hv0, hv1, hsum]
  rfl

theorem exec_enc_idle {s : State} (hb : s.busy = false) :
    exec .enc s = .next { s with
      v0 := (teaEnc s.v0 s.v1 s.k0 s.k1 s.k2 s.k3).1, v1 := (teaEnc s.v0 s.v1 s.k0 s.k1 s.k2 s.k3).2,
      sum := 0xC6EF3720, rcnt := 32, busy := false, done := true, act := .none, actVc := false } :=
  (exec_idle .enc hb).trans (congrArg (fun u => Host.Outcome.next (complete u)) (encRounds_acceptEnc s))

theorem exec_dec_idle {s : State} (hb : s.busy = false) :
    exec .dec s = .next { s with
      v0 := (teaDec s.v0 s.v1 s.k0 s.k1 s.k2 s.k3).1, v1 := (teaDec s.v0 s.v1 s.k0 s.k1 s.k2 s.k3).2,
      sum := 0, rcnt := 32, busy := false, done := true, act := .none, actVc := false } :=
  (exec_idle .dec hb).trans (congrArg (fun u => Host.Outcome.next (complete u)) (decRounds_acceptDec s))

/-- Settles O14: acceptance, the 32 rounds in closed form, completion. -/
theorem encComputesTeaEnc : Obligations.EncComputesTeaEnc := fun _ => exec_enc_idle

/-- Settles O15: acceptance, the 32 rounds in closed form, completion. -/
theorem decComputesTeaDec : Obligations.DecComputesTeaDec := fun _ => exec_dec_idle

/-- Settles O20: each loop undoes the other, and the first command leaves the block idle, so both complete. -/
theorem roundTripRestoresBlock : Obligations.RoundTripRestoresBlock := by
  refine ⟨fun v0 v1 k0 k1 k2 k3 => ⟨teaDec_teaEnc k0 k1 k2 k3 v0 v1, teaEnc_teaDec k0 k1 k2 k3 v0 v1⟩,
    fun s hb => ⟨?_, ?_⟩⟩
  · refine ⟨_, _, exec_enc_idle hb, exec_dec_idle rfl, ?_, ?_⟩ <;> simp only [teaDec_teaEnc]
  · refine ⟨_, _, exec_dec_idle hb, exec_enc_idle rfl, ?_, ?_⟩ <;> simp only [teaEnc_teaDec]

/-- Settles O21: the closed forms name no other operand. -/
theorem cipherDependsOnBlockAndKeyAlone : Obligations.CipherDependsOnBlockAndKeyAlone := by
  intro s₁ s₂ hb₁ hb₂ hv0 hv1 hk0 hk1 hk2 hk3 i hi
  have hsame : ∀ f : Word → Word → Word → Word → Word → Word → Word × Word,
      f s₁.v0 s₁.v1 s₁.k0 s₁.k1 s₁.k2 s₁.k3 = f s₂.v0 s₂.v1 s₂.k0 s₂.k1 s₂.k2 s₂.k3 := fun f => by
    rw [hv0, hv1, hk0, hk1, hk2, hk3]
  rcases hi with rfl | rfl
  · exact ⟨_, _, exec_enc_idle hb₁, exec_enc_idle hb₂, congrArg Prod.fst (hsame teaEnc),
      congrArg Prod.snd (hsame teaEnc), rfl, rfl⟩
  · exact ⟨_, _, exec_dec_idle hb₁, exec_dec_idle hb₂, congrArg Prod.fst (hsame teaDec),
      congrArg Prod.snd (hsame teaDec), rfl, rfl⟩

/-! ## ENC and DEC round by round -/

/-- What follows a round: completion if it made RCNT = 32, else nothing (42_tea R163, R166). -/
theorem completeAfterRounds_cases (s : State) :
    (s.rcnt = 32 ∧ completeAfterRounds s = complete s) ∨ (s.rcnt ≠ 32 ∧ completeAfterRounds s = s) := by
  unfold completeAfterRounds
  split_ifs with h
  · exact .inl ⟨h, rfl⟩
  · exact .inr ⟨h, rfl⟩

/-- An engine step of ENC (42_tea R163). -/
theorem engineStep_enc_round {s : State} (hb : s.busy = true) (ha : s.act = .enc) :
    ∃ t, engineStep s = .next t ∧
      t.sum = s.sum + delta ∧ t.v0 = s.v0 + mix s.v1 t.sum s.k0 s.k1 ∧ t.v1 = s.v1 + mix t.v0 t.sum s.k2 s.k3 ∧
      t.rcnt = s.rcnt + 1 ∧
      (t.rcnt = 32 → t = { s with
        sum := t.sum, v0 := t.v0, v1 := t.v1, rcnt := t.rcnt,
        busy := false, done := true, act := .none, actVc := false }) ∧
      (t.rcnt ≠ 32 → t = { s with sum := t.sum, v0 := t.v0, v1 := t.v1, rcnt := t.rcnt }) := by
  refine ⟨encPart s, engineStep_enc hb ha, ?_⟩
  rw [encPart]
  rcases completeAfterRounds_cases (encRound s) with ⟨hr, e⟩ | ⟨hr, e⟩ <;> rw [e]
  · exact ⟨rfl, rfl, rfl, rfl, fun _ => rfl, fun h => absurd hr h⟩
  · exact ⟨rfl, rfl, rfl, rfl, fun h => absurd h hr, fun _ => rfl⟩

/-- An engine step of DEC (42_tea R166). -/
theorem engineStep_dec_round {s : State} (hb : s.busy = true) (ha : s.act = .dec) :
    ∃ t, engineStep s = .next t ∧
      t.v1 = s.v1 - mix s.v0 s.sum s.k2 s.k3 ∧ t.v0 = s.v0 - mix t.v1 s.sum s.k0 s.k1 ∧ t.sum = s.sum - delta ∧
      t.rcnt = s.rcnt + 1 ∧
      (t.rcnt = 32 → t = { s with
        sum := t.sum, v0 := t.v0, v1 := t.v1, rcnt := t.rcnt,
        busy := false, done := true, act := .none, actVc := false }) ∧
      (t.rcnt ≠ 32 → t = { s with sum := t.sum, v0 := t.v0, v1 := t.v1, rcnt := t.rcnt }) := by
  refine ⟨decPart s, engineStep_dec hb ha, ?_⟩
  rw [decPart]
  rcases completeAfterRounds_cases (decRound s) with ⟨hr, e⟩ | ⟨hr, e⟩ <;> rw [e]
  · exact ⟨rfl, rfl, rfl, rfl, fun _ => rfl, fun h => absurd hr h⟩
  · exact ⟨rfl, rfl, rfl, rfl, fun h => absurd h hr, fun _ => rfl⟩

set_option maxRecDepth 4000 in
theorem teaEnc_vectors :
    teaEnc 0x484F4C41 0x31323334 0x12345678 0x9ABCDEF0 0xFEDCBA98 0x76543210 = (0xBE91739F, 0xC5B30D30) ∧
    teaEnc 0 0 0 0 0 0 = (0x41EA3A0A, 0x94BAA940) := by
  constructor <;> decide

set_option maxRecDepth 4000 in
theorem teaDec_zero : teaDec 0 0 0 0 0 0 = (0x1423FF6D, 0x9216EF3A) := by decide

/-- ENC's first vector read backwards is DEC's (42_tea R166, R167). -/
theorem teaDec_vectors :
    teaDec 0xBE91739F 0xC5B30D30 0x12345678 0x9ABCDEF0 0xFEDCBA98 0x76543210 = (0x484F4C41, 0x31323334) ∧
    teaDec 0 0 0 0 0 0 = (0x1423FF6D, 0x9216EF3A) := by
  obtain ⟨henc, -⟩ := teaEnc_vectors
  have hdec := teaDec_teaEnc 0x12345678 0x9ABCDEF0 0xFEDCBA98 0x76543210 0x484F4C41 0x31323334
  rw [henc] at hdec
  exact ⟨hdec, teaDec_zero⟩

/-- Settles O16: the word's decoding and its write to an idle and to a busy block, a round with the mixing function written
out, the closed form, the vectors. -/
theorem encAcceptanceAndRounds : Obligations.EncAcceptanceAndRounds :=
  ⟨decode_encode .enc, fun _ => transact_cmd (decode_encode .enc), fun _ => transact_cmd_busy _,
    fun _ => engineStep_enc_round, fun _ hb => ⟨_, exec_enc_idle hb, rfl, rfl, rfl, rfl⟩, teaEnc_vectors⟩

/-- Settles O17: as O16 for DEC, the Block's final value by the closed form. -/
theorem decAcceptanceAndRounds : Obligations.DecAcceptanceAndRounds :=
  ⟨decode_encode .dec, fun _ => transact_cmd (decode_encode .dec), fun _ => transact_cmd_busy _,
    fun _ => engineStep_dec_round, fun _ hb => ⟨_, exec_dec_idle hb, rfl, rfl, rfl, rfl, rfl, rfl⟩, teaDec_vectors⟩

/-- `n` rounds into ENC: the command is still active, the Key is the one it was accepted with, and SUM is on the schedule
(42_tea R168). -/
theorem engineSteps_acceptEnc (s : State) {n : Nat} (hn : n < 32) :
    ∃ u, engineSteps n (acceptEnc s) = .next u ∧ u.busy = true ∧ u.act = .enc ∧ u.key = s.key ∧
      u.sum = delta * BitVec.ofNat 32 n := by
  refine ⟨_, engineSteps_enc (acceptEnc s) rfl rfl n (by simpa [acceptEnc] using hn), ?_⟩
  rw [encRounds_frame]
  exact ⟨rfl, rfl, rfl, BitVec.zero_add _⟩

/-- `n` rounds into DEC, likewise. -/
theorem engineSteps_acceptDec (s : State) {n : Nat} (hn : n < 32) :
    ∃ u, engineSteps n (acceptDec s) = .next u ∧ u.busy = true ∧ u.act = .dec ∧ u.key = s.key ∧
      u.sum = delta * BitVec.ofNat 32 (32 - n) := by
  refine ⟨_, engineSteps_dec (acceptDec s) rfl rfl n (by simpa [acceptDec] using hn), ?_⟩
  rw [decRounds_frame]
  exact ⟨rfl, rfl, rfl, deltaTimes32_sub hn.le⟩

/-- Round `n + 1` of ENC. -/
theorem enc_round_scheduled (s : State) {n : Nat} (hn : n < 32) :
    ∃ u t, engineSteps n (acceptEnc s) = .next u ∧ engineStep u = .next t ∧
      t.sum = delta * BitVec.ofNat 32 (n + 1) ∧
      t.v0 = u.v0 + mix u.v1 (delta * BitVec.ofNat 32 (n + 1)) s.k0 s.k1 ∧
      t.v1 = u.v1 + mix t.v0 (delta * BitVec.ofNat 32 (n + 1)) s.k2 s.k3 := by
  obtain ⟨u, hu, hb, ha, hk, hsum⟩ := engineSteps_acceptEnc s hn
  obtain ⟨t, ht, hs, h0, h1, -⟩ := engineStep_enc_round hb ha
  obtain ⟨hk0, hk1, hk2, hk3⟩ : _ ∧ _ ∧ _ ∧ _ := by simpa only [State.key, Prod.mk.injEq] using hk
  rw [hsum, ← delta_mul_succ] at hs
  rw [hs, hk0, hk1] at h0
  rw [hs, hk2, hk3] at h1
  exact ⟨u, t, hu, ht, hs, h0, h1⟩

/-- Round `n + 1` of DEC. -/
theorem dec_round_scheduled (s : State) {n : Nat} (hn : n < 32) :
    ∃ u t, engineSteps n (acceptDec s) = .next u ∧ engineStep u = .next t ∧
      t.sum = delta * BitVec.ofNat 32 (32 - (n + 1)) ∧
      t.v1 = u.v1 - mix u.v0 (delta * BitVec.ofNat 32 (32 - n)) s.k2 s.k3 ∧
      t.v0 = u.v0 - mix t.v1 (delta * BitVec.ofNat 32 (32 - n)) s.k0 s.k1 := by
  obtain ⟨u, hu, hb, ha, hk, hsum⟩ := engineSteps_acceptDec s hn
  obtain ⟨t, ht, h1, h0, hs, -⟩ := engineStep_dec_round hb ha
  obtain ⟨hk0, hk1, hk2, hk3⟩ : _ ∧ _ ∧ _ ∧ _ := by simpa only [State.key, Prod.mk.injEq] using hk
  rw [hsum, hk2, hk3] at h1
  rw [hsum, hk0, hk1] at h0
  rw [hsum, show 32 - n = 32 - (n + 1) + 1 by omega, delta_mul_succ, BitVec.add_sub_cancel] at hs
  exact ⟨u, t, hu, ht, hs, h1, h0⟩

/-- Settles O19: round r is the one after r - 1 engine steps; DEC's round leaves of ENC's only the round count. -/
theorem sumSchedule : Obligations.SumSchedule := by
  refine ⟨fun s r _ h1 hr => ?_, fun s r _ h1 hr => ?_, fun s => ?_, by decide, by decide, by decide, by decide⟩
  · obtain ⟨n, rfl⟩ := Nat.exists_eq_add_of_le' h1
    exact enc_round_scheduled s hr
  · obtain ⟨n, rfl⟩ := Nat.exists_eq_add_of_le' h1
    rw [show 33 - (n + 1) = 32 - n by omega]
    exact dec_round_scheduled s hr
  · rw [decRound_encRound]
    exact ⟨rfl, rfl, rfl⟩

/-! ## The frame of ENC and DEC -/

/-- `t` is `u` but for V0, V1, SUM, RCNT, the flags of completion and the recorded error. -/
def SameButCipher (t u : State) : Prop :=
  t = { u with
    v0 := t.v0, v1 := t.v1, sum := t.sum, rcnt := t.rcnt, busy := t.busy, done := t.done, act := t.act,
    actVc := t.actVc, err := t.err, ecode := t.ecode }

theorem exec_cipher_frame {i : Instr} {s t : State} (hi : i = .enc ∨ i = .dec) (hs : exec i s = .next t) :
    SameButCipher t s := by
  rcases exec_cases hs with ⟨-, rfl⟩ | ⟨hb, -⟩
  · rfl
  · rcases hi with rfl | rfl
    · rw [exec_enc_idle hb] at hs
      cases hs
      rfl
    · rw [exec_dec_idle hb] at hs
      cases hs
      rfl

/-- Settles O22: the common frame, and the two outcomes by BUSY. -/
theorem cipherCommandsFrame : Obligations.CipherCommandsFrame := by
  intro i s t hi hs
  have hframe := exec_cipher_frame hi hs
  refine ⟨?_, exec_readMsg hs, ?_, fun hb => exec_idle_errors hb hs, fun hb => ?_⟩
  · rw [hframe]
    exact ⟨rfl, rfl, rfl, rfl, rfl, rfl, rfl, rfl, rfl, rfl, rfl, rfl, rfl, fun _ _ => rfl⟩
  · rw [hframe]
    exact ⟨rfl, rfl, rfl, rfl, rfl, rfl⟩
  · rw [exec_rejected hb hs]
    exact ⟨rfl, rfl, rfl, rfl, hb, rfl, rfl, rfl⟩

end Sys2Proof.Machine
end

section
/-! PROOFS of the family 43_block_text_view: the clamped count, what RENDER and RENDER.VC leave of an idle block, what
they show of a padded one, and the statements of that family settled from them. -/

namespace Sys2Proof.Machine

open Sys2Proof

/-! ## The count -/

/-- The clamp as a minimum and a maximum (00_scope R11). -/
theorem clampCount_eq_max_min (x : Int) : clampCount x = (max 0 (min x 8)).toNat := by
  unfold clampCount
  split_ifs <;> omega

/-- A word below 2^31 is its own value as a signed integer. -/
theorem clampCount_toInt_of_lt {w : Word} (h : w.toNat < 0x80000000) : clampCount w.toInt = min w.toNat 8 := by
  rw [clampCount_eq_max_min, BitVec.toInt_eq_toNat_of_lt (by omega)]
  omega

/-- A word from 2^31 on is negative as a signed integer. -/
theorem clampCount_toInt_of_ge {w : Word} (h : 0x80000000 ≤ w.toNat) : clampCount w.toInt = 0 :=
  if_pos (BitVec.toInt_neg_iff.2 (by omega))

theorem clampCount_toInt_ofNat {n : Nat} (hn : n ≤ 8) : clampCount (BitVec.ofNat 32 n).toInt = n := by
  have hval : (BitVec.ofNat 32 n).toNat = n := BitVec.toNat_ofNat n 32 ▸ Nat.mod_eq_of_lt (by omega)
  rw [clampCount_toInt_of_lt (by omega), hval, Nat.min_eq_left hn]

/-! ## RENDER and RENDER.VC on an idle block -/

/-- `s` after a completed RENDER of `n` bytes (43_text R202; 30_encoding R98). -/
def rendered (s : State) (n : Nat) : State :=
  { s with
    out0 := renderedByte s n 0, out1 := renderedByte s n 1, out2 := renderedByte s n 2, out3 := renderedByte s n 3,
    out4 := renderedByte s n 4, out5 := renderedByte s n 5, out6 := renderedByte s n 6, out7 := renderedByte s n 7,
    outLen := BitVec.ofNat 4 n, busy := false, done := true, act := .none, actVc := false }

/-- RENDER takes the Block and the count from the state it is accepted in: acceptance touches neither. -/
theorem exec_render_idle {s : State} (hb : s.busy = false) : exec .render s = .next (rendered s 8) :=
  exec_idle .render hb

theorem exec_renderVc_idle {s : State} {n : Nat} (hb : s.busy = false) (hn : clampCount s.vcount.toInt = n) :
    exec .renderVc s = .next (rendered s n) :=
  hn ▸ exec_idle .renderVc hb

theorem rendered_outByte (s : State) (n : Nat) {j : Nat} (hj : j < 8) : (rendered s n).outByte j = renderedByte s n j := by
  interval_cases j <;> rfl

theorem rendered_outByte_of_lt (s : State) {n j : Nat} (hj : j < 8) (hn : j < n) :
    (rendered s n).outByte j = blockByte s j :=
  (rendered_outByte s n hj).trans (if_pos hn)

theorem rendered_outByte_of_ge (s : State) {n j : Nat} (hj : j < 8) (hn : n ≤ j) : (rendered s n).outByte j = 0 :=
  (rendered_outByte s n hj).trans (if_neg (not_lt.2 hn))

theorem rendered_outLen_toNat (s : State) {n : Nat} (hn : n ≤ 8) : (rendered s n).outLen.toNat = n :=
  (BitVec.toNat_ofNat n 4).trans (Nat.mod_eq_of_lt (by omega))

/-- Settles O32: the two commands differ in the count alone, and each r_i is a byte of the Block by definition. -/
theorem renderWritesOut : Obligations.RenderWritesOut := by
  rintro i s n (rfl | rfl) hb hn
  · obtain rfl : n = 8 := hn
    exact exec_render_idle hb
  · exact exec_renderVc_idle hb ((clampCount_eq_max_min _).trans hn.symm)

/-- A count clamped to 0 renders the empty text: every byte of OUT is past it. -/
theorem exec_renderVc_zero {s : State} (hb : s.busy = false) (hn : clampCount s.vcount.toInt = 0) :
    ∃ t, exec .renderVc s = .next t ∧ t.outLen = 0 ∧ ∀ j < 8, t.outByte j = 0 :=
  ⟨_, exec_renderVc_idle hb hn, rfl, fun j hj => rendered_outByte_of_ge s hj (Nat.zero_le j)⟩

/-- Settles O33: the count at each corner, by the sign of VCOUNT, and the rejection. -/
theorem renderCountCornerCases : Obligations.RenderCountCornerCases := by
  refine ⟨fun s hb => ⟨_, exec_render_idle hb, rfl⟩, fun s hb hv => exec_renderVc_zero hb (hv ▸ rfl),
    fun s hb hge hlt => ?_, fun s hb hneg => exec_renderVc_zero hb (clampCount_toInt_of_ge hneg), fun i s _ => exec_busy i⟩
  have hcount : clampCount s.vcount.toInt = 8 := (clampCount_toInt_of_lt hlt).trans (Nat.min_eq_right hge)
  exact ⟨_, exec_renderVc_idle hb hcount, rfl⟩

/-! ## RENDER after PAD -/

/-- The rendered bytes of a Block that holds the padded block are the padded block's (43_text R201; 41_block_padder R142). -/
theorem blockByte_of_padWords {s u : State} (h0 : u.v0 = padWord s 0) (h1 : u.v1 = padWord s 4) {j : Nat} (hj : j < 8) :
    blockByte u j = padByte s j := by
  unfold blockByte
  split_ifs with h
  · rw [h0, unbe32_padWord s 0 h, Nat.zero_add]
  · rw [h1, unbe32_padWord s 4 (by omega), Nat.add_sub_cancel' (not_lt.1 h)]

/-- The host sets the count of an idle block (20_memory R63). -/
theorem transact_vcount_idle (w : Word) {s : State} (hb : s.busy = false) :
    transact (.regWrite 0x0B w) s = { s with vcount := w } :=
  (transact_operand (r := .vcount) w s rfl rfl nofun nofun).trans (if_neg (by simp [hb]))

/-- From an idle `u` whose Block is `s`'s padded block, RENDER.VC with the count of `s`'s valid bytes shows those bytes
(43_text R203). -/
theorem renderVc_shows_valid_bytes {s u : State} {n : Nat} (hb : u.busy = false) (h0 : u.v0 = padWord s 0)
    (h1 : u.v1 = padWord s 4) (hn : n = min 8 (s.msgLen.toNat - s.offset.toNat)) :
    ∃ z, exec .renderVc (transact (.regWrite 0x0B (BitVec.ofNat 32 n)) u) = .next z ∧ z.outLen.toNat = n ∧
      ∀ i < n, z.outByte i = s.readMsg (s.offset.toNat + i) := by
  have hn8 : n ≤ 8 := by omega
  rw [transact_vcount_idle _ hb]
  refine ⟨_, exec_renderVc_idle hb (clampCount_toInt_ofNat hn8), rendered_outLen_toNat _ hn8, fun i hi => ?_⟩
  calc (rendered _ n).outByte i
      = blockByte { u with vcount := BitVec.ofNat 32 n } i := rendered_outByte_of_lt _ (by omega) hi
    _ = padByte s i := blockByte_of_padWords h0 h1 (by omega)
    _ = s.readMsg (s.offset.toNat + i) := padByte_of_lt (by omega)

/-- ENC and then DEC leave an idle block idle, with the Block it had (42_tea R167). -/
theorem exec_enc_dec_idle {s : State} (hb : s.busy = false) :
    ∃ t u, exec .enc s = .next t ∧ exec .dec t = .next u ∧ u.busy = false ∧ u.v0 = s.v0 ∧ u.v1 = s.v1 := by
  refine ⟨_, _, exec_enc_idle hb, exec_dec_idle rfl, rfl, ?_, ?_⟩ <;> simp only [teaDec_teaEnc]

/-- Settles O35: PAD leaves an idle block that holds the padded block, and ENC and DEC after it bring that block back. -/
theorem renderInvertsPad : Obligations.RenderInvertsPad := by
  intro s n hb _ hn
  obtain ⟨a, ha, hidle, h0, h1⟩ :
      ∃ a, exec .pad s = .next a ∧ a.busy = false ∧ a.v0 = padWord s 0 ∧ a.v1 = padWord s 4 :=
    ⟨_, exec_pad_idle hb, rfl, rfl, rfl⟩
  obtain ⟨b, c, henc, hdec, hc, hv0, hv1⟩ := exec_enc_dec_idle hidle
  obtain ⟨z, hz⟩ := renderVc_shows_valid_bytes hidle h0 h1 hn
  obtain ⟨z', hz'⟩ := renderVc_shows_valid_bytes hc (hv0.trans h0) (hv1.trans h1) hn
  exact ⟨⟨a, z, ha, hz⟩, a, b, c, z', ha, henc, hdec, hz'⟩

/-! ## The frame of RENDER and RENDER.VC -/

/-- `t` is `u` but for OUT0 to OUT7 and OUT_LEN, the flags of completion and the recorded error. -/
def SameButText (t u : State) : Prop :=
  t = { u with
    out0 := t.out0, out1 := t.out1, out2 := t.out2, out3 := t.out3, out4 := t.out4, out5 := t.out5, out6 := t.out6,
    out7 := t.out7, outLen := t.outLen, busy := t.busy, done := t.done, act := t.act, actVc := t.actVc, err := t.err,
    ecode := t.ecode }

theorem exec_render_frame {i : Instr} {s t : State} (hi : i = .render ∨ i = .renderVc) (hs : exec i s = .next t) :
    SameButText t s := by
  rcases exec_cases hs with ⟨-, rfl⟩ | ⟨-, rfl⟩
  · rfl
  · rcases hi with rfl | rfl <;> rfl

/-- Settles O34: the common frame, and the two outcomes by BUSY. -/
theorem renderCommandsFrame : Obligations.RenderCommandsFrame := by
  intro i s t hi hs
  have hframe := exec_render_frame hi hs
  refine ⟨?_, exec_readMsg hs, ?_, ?_, fun hb => exec_idle_errors hb hs, fun hb => ?_⟩
  · rw [hframe]
    exact ⟨rfl, rfl, rfl, rfl, rfl, rfl, rfl, rfl, rfl, rfl, rfl, rfl, rfl, rfl, rfl⟩
  · rw [hframe]
    exact ⟨rfl, rfl, rfl, rfl, rfl, rfl⟩
  · rw [hframe]
  · rw [exec_rejected hb hs]
    exact ⟨rfl, fun _ _ => rfl, hb, rfl, rfl, rfl⟩

end Sys2Proof.Machine
end

section
/-! PROOFS of the family 60_exceptions: a sound state's step is always a next state; no command and no host read has an error
outcome; a transaction records the error of its cause and nothing else, or none; and the statements of that family settled
from them. -/

namespace Sys2Proof.Machine

open Sys2Proof

/-! ## A sound state never stops -/

theorem exec_total (i : Instr) (s : State) : ∃ t, exec i s = .next t := by
  cases hb : s.busy with
  | true => exact ⟨_, exec_busy i hb⟩
  | false => exact ⟨_, exec_idle i hb⟩

theorem commandRun_total (w : Word) (s : State) : ∃ t, commandRun w s = .next t := by
  cases hd : decode w with
  | some i =>
    rw [commandRun_of_decode hd]
    exact exec_total i s
  | none => exact ⟨cmdWrite w s, by simp only [commandRun, hd]⟩

/-- A sound busy block has a command active, and an idle one has no step to make. -/
theorem engineStep_total_of_inv {s : State} (h : s.Inv) : ∃ t, engineStep s = .next t := by
  cases hb : s.busy with
  | true => exact engineStep_total hb (h.busy_iff_act.1 hb)
  | false => exact ⟨s, engineStep_idle hb⟩

theorem performMove_total (m : Move) {s : State} (h : s.Inv) : ∃ t, performMove m s = .next t := by
  cases m with
  | host y => exact ⟨_, rfl⟩
  | hostLine => exact hostLineStep_total h
  | commandRun w => exact commandRun_total w s
  | engine => exact engineStep_total_of_inv h
  | reset => exact ⟨_, rfl⟩

theorem unscheduled_total {s : State} (h : s.Inv) : ∃ t, unscheduled s = .next t := by
  unfold unscheduled
  split_ifs
  · exact engineStep_total_of_inv h
  · exact hostLineStep_total h

theorem step_total {s : State} (h : s.Inv) : ∃ t, step s = .next t := by
  cases hin : s.inputs with
  | nil =>
    rw [step_unscheduled hin]
    exact unscheduled_total h
  | cons m rest =>
    rw [step_scheduled hin]
    exact performMove_total m (inv_inputs h rest)

/-- Settles O12: each move of a sound state has an outcome, and the invariant is kept. -/
theorem soundStatesNeverStop : Obligations.SoundStatesNeverStop := by
  intro s h
  obtain ⟨t, ht⟩ := step_total h
  exact ⟨t, ht, stepKeepsSoundness s t h ht⟩

/-! ## Commands and reads raise no error -/

theorem regRead_errors (n : BitVec 6) (s : State) :
    (transact (.regRead n) s).err = s.err ∧ (transact (.regRead n) s).ecode = s.ecode := by
  obtain ⟨l, d, e⟩ := regRead_frame n s
  rw [transact, e]
  exact ⟨rfl, rfl⟩

theorem msgRead_errors (i : Word) (s : State) :
    (transact (.msgRead i) s).err = s.err ∧ (transact (.msgRead i) s).ecode = s.ecode :=
  ⟨rfl, rfl⟩

/-- Settles O13: an idle block runs the command to its completion, which leaves the recorded error, and so do both reads. -/
theorem noCommandHasErrorOutcome : Obligations.NoCommandHasErrorOutcome := by
  refine ⟨fun i s hb => ?_, regRead_errors, msgRead_errors⟩
  have hx := exec_idle i hb
  obtain ⟨herr, hecode⟩ := exec_idle_errors hb hx
  exact ⟨_, hx, herr, hecode, rfl⟩

/-! ## The error a transaction records -/

/-- What `t`, the state a transaction of `s` leaves, records of the cause: its error and nothing else (60_exceptions R222),
or, without a cause, no error that `s` does not have. -/
def RecordsCause (s t : State) : Option ErrorCode → Prop
  | some c => t = raiseError c s
  | none => t.err = true → s.err = true ∧ t.ecode = s.ecode

theorem recordsCause_none_of_errors_eq {s t : State} (h : t.err = s.err ∧ t.ecode = s.ecode) :
    RecordsCause s t none := by
  obtain ⟨herr, hecode⟩ := h
  exact fun ht => ⟨herr ▸ ht, hecode⟩

theorem recordsCause_statusWrite (w : Word) (s : State) : RecordsCause s (statusWrite w s) none := by
  cases hw : w.getLsbD 2 with
  | true =>
    rw [statusWrite_of_set hw]
    exact nofun
  | false =>
    rw [statusWrite_of_clear hw]
    exact recordsCause_none_of_errors_eq ⟨rfl, rfl⟩

/-- Every register number is a bad address, STATUS, CMD or an operand (20_memory R63). -/
theorem Reg.ofNumber_operand_of_other {n : BitVec 6}
    (hbad : ¬ (0x1A ≤ n.toNat ∨ n = 0x08 ∨ n = 0x0C ∨ (0x12 ≤ n.toNat ∧ n.toNat ≤ 0x19))) (hstatus : n ≠ 0x01)
    (hcmd : n ≠ 0x00) : ∃ r ∈ operandRegs, Reg.ofNumber n = some r :=
  Reg.ofNumber_operand n (by bv_omega)

theorem regWrite_recordsCause (n : BitVec 6) (w : Word) (s : State) :
    RecordsCause s (transact (.regWrite n w) s) (errorCause s (.regWrite n w)) := by
  simp only [errorCause]
  split_ifs with hbad hstatus hcmd hb hw hb
  · exact transact_badAddr w s (Reg.ofNumber_badAddr n hbad)
  · subst hstatus
    exact recordsCause_statusWrite w s
  · subst hcmd
    exact transact_cmd_busy w hb
  · subst hcmd
    obtain ⟨i, e⟩ := transact_legal_cmd (Bool.eq_false_iff.2 hb) hw
    rw [e]
    exact recordsCause_none_of_errors_eq (acceptCommand_errors i s)
  · subst hcmd
    exact transact_cmd_illegal (Bool.eq_false_iff.2 hw) (Bool.eq_false_iff.2 hb)
  · obtain ⟨r, hr, hn⟩ := Reg.ofNumber_operand_of_other hbad hstatus hcmd
    exact transact_operand_busy w hr hn hb
  · obtain ⟨r, hr, hn⟩ := Reg.ofNumber_operand_of_other hbad hstatus hcmd
    rw [transact_operand_idle w hr hn (Bool.eq_false_iff.2 hb)]
    exact recordsCause_none_of_errors_eq (storeReg_errors r w s)

theorem msgWrite_recordsCause (i : Word) (b : Byte) (s : State) :
    RecordsCause s (transact (.msgWrite i b) s) (errorCause s (.msgWrite i b)) := by
  obtain ⟨hout, hbusy, hidle⟩ := msgWriteFirstMatchingCase i b s
  simp only [errorCause]
  split_ifs with hcap hb
  · exact hout hcap
  · exact hbusy (not_le.1 hcap) hb
  · obtain ⟨e, -⟩ := hidle (not_le.1 hcap) (Bool.eq_false_iff.2 hb)
    exact recordsCause_none_of_errors_eq (by rw [e]; exact ⟨rfl, rfl⟩)

theorem transact_recordsCause (x : Transaction) (s : State) : RecordsCause s (transact x s) (errorCause s x) := by
  cases x with
  | regWrite n w => exact regWrite_recordsCause n w s
  | regRead n => exact recordsCause_none_of_errors_eq (regRead_errors n s)
  | msgWrite i b => exact msgWrite_recordsCause i b s
  | msgRead i => exact recordsCause_none_of_errors_eq (msgRead_errors i s)

/-- Settles O53: a transaction records its cause, whether it has one or not. -/
theorem errorCausesPriorityAndPrecision : Obligations.ErrorCausesPriorityAndPrecision := by
  intro x s
  have hrec : ∀ c, errorCause s x = c → RecordsCause s (transact x s) c := fun c hc => hc ▸ transact_recordsCause x s
  exact ⟨fun c hc => hrec (some c) hc, hrec none, rfl, rfl, rfl, rfl, rfl⟩

end Sys2Proof.Machine
end

section
/-! PROOFS of the family 70_reset_and_hazards: what the reset event leaves in every register and in MSG; the state after reset
is idle and sound and accepts each command; and the statements of that family settled from them. -/

namespace Sys2Proof.Machine

open Sys2Proof

/-! ## The reset event -/

/-- A reset at the head of the schedule resets the block, whatever it was doing (70_reset R250). -/
theorem step_reset {s : State} {rest : List Move} (h : s.inputs = .reset :: rest) :
    step s = .next (resetBlock { s with inputs := rest }) :=
  step_scheduled h

/-- With BUSY, DONE, ERR, ECODE and RCNT clear, STATUS reads 0 (10_state R22). -/
theorem statusWord_eq_zero {s : State} (hb : s.busy = false) (hd : s.done = false) (he : s.err = false)
    (hc : s.ecode = .none) (hr : s.rcnt = 0) : statusWord s = 0x00000000 := by
  rw [statusWord, statusWordWith, hb, hd, he, hc, hr]
  rfl

theorem regValue_out_high {r : Reg} (hr : r ∈ outRegs) (s : State) : (regValue s r).extractLsb' 8 24 = 0 := by
  have hzero : ∀ b : Byte, (b.setWidth 32).extractLsb' 8 24 = 0 := fun b =>
    setWidth_byte b ▸ BitVec.extractLsb'_append_eq_left
  cases r with
  | out0 | out1 | out2 | out3 | out4 | out5 | out6 | out7 => exact hzero _
  | _ => exact absurd hr (by decide)

/-- The registers that store one byte read 0 in bits 31:8 (10_state R38, R40). -/
theorem regValue_byte_high {r : Reg} (hr : r ∈ cbRegs ++ outRegs) (s : State) :
    (regValue s r).extractLsb' 8 24 = 0 :=
  (List.mem_append.1 hr).elim (regValue_cb_high · s) (regValue_out_high · s)

/-- Nothing of MSG is written right after a reset, so each byte reads as that reset's draw (70_reset R252; log 3). -/
theorem readMsg_resetBlock (s : State) (a : Nat) :
    (resetBlock s).readMsg a = Config.resetMsgByte (s.resets + 1) a := rfl

/-- Settles O7: the fields a reset fixes, STATUS from its fields, and the width of the byte registers. -/
theorem resetSetsEveryRegister : Obligations.ResetSetsEveryRegister := by
  intro s rest h
  have hstatus : statusWord (resetBlock { s with inputs := rest }) = 0 := statusWord_eq_zero rfl rfl rfl rfl rfl
  exact ⟨_, step_reset h, rfl, rfl, rfl, rfl, rfl, hstatus, rfl, rfl, rfl, rfl, rfl, rfl, rfl,
    fun _ hr => regValue_byte_high hr _⟩

/-- Settles O8: each unspecified register is its own draw of the reset's number, each byte of MSG by `readMsg_resetBlock`. -/
theorem resetDrawsAreFresh : Obligations.ResetDrawsAreFresh := by
  intro s rest h
  refine ⟨_, step_reset h, ?_⟩
  have hmsg := readMsg_resetBlock { s with inputs := rest }
  exact ⟨rfl, rfl, rfl, rfl, rfl, rfl, rfl, rfl, rfl, rfl, rfl, rfl, rfl, rfl, rfl, rfl, rfl, rfl, rfl, rfl, hmsg,
    rfl, rfl, rfl, rfl, rfl⟩

/-! ## The state after reset -/

/-- Settles O9: the reset state is idle, and an idle block accepts each command's word. -/
theorem resetBlockAcceptsCommands : Obligations.ResetBlockAcceptsCommands := by
  have hidle : State.reset.busy = false := rfl
  exact ⟨hidle, statusWord_eq_zero hidle rfl rfl rfl rfl,
    fun i => ⟨transact_cmd (decode_encode i) hidle, acceptCommand_busy i State.reset⟩⟩

theorem one_le_msgCap : 1 ≤ Config.msgCap := Nat.le_add_left 1 _

theorem msgCap_le : Config.msgCap ≤ 4294967295 := Config.msgCapLessOne.isLt

/-- Every reset's own state is sound: no command is active and no error recorded, no byte of MSG is listed, and MSG_CAP is in
R8's range. -/
theorem inv_resetNumber (k : Nat) : (State.resetNumber k).Inv where
  busy_iff_act := by simp [State.resetNumber]
  busy_not_done := nofun
  vc_only_render := nofun
  err_iff_ecode := by simp [State.resetNumber]
  rcnt_le := Nat.zero_le _
  enc_sum := nofun
  dec_sum := nofun
  outLen_le := Nat.zero_le _
  cap_pos := one_le_msgCap
  cap_le := msgCap_le
  msgLen_le := Nat.zero_le _
  msg_wf := .nil
  msg_in_range := nofun
  vars_wf := .nil
  prog_wf := rfl

/-- Settles O10: the machine after power-on is the reset with number 0. -/
theorem resetStateIsSound : Obligations.ResetStateIsSound := inv_resetNumber 0

end Sys2Proof.Machine
end
